-- ==== Sys2Proof/Word.lean ====
section
/-! DEFINITION. The word types of the CORE: widths only (file 00 R9, R11). -/

namespace Sys2Proof

/-- A register, a memory word, the program counter and an instruction word: 32 bits (R9, R30, R36, R42, R100). -/
abbrev Word := BitVec 32

/-- A register index: a 5-bit field of the instruction word, so 0 to 31 by construction (R30, R263). -/
abbrev RegIdx := BitVec 5

/-- The opcode field, 4 bits (R101). -/
abbrev Opcode := BitVec 4

/-- The shift-amount field, 13 bits unsigned (R101, R109). -/
abbrev Shamt := BitVec 13

/-- The address field, 28 bits unsigned (R101, R109). -/
abbrev Addr := BitVec 28

end Sys2Proof
end

