-- ==== Sys2Proof/Config.lean ====
section
/-! DEFINITION. The implementation parameters of file 00 section 4. The spec leaves no parameter open, so there is no opaque constant here. -/

namespace Sys2Proof.Config

/-- MEMWORDS: the number of memory words, addresses 0 to 2047 (R10). -/
abbrev memWords : Nat := 2048

/-- MEM_START_TICK: the first tick on which the Memory stage may act (R12, R213). -/
abbrev memStartTick : Nat := 6

/-- WB_START_TICK: the first tick on which the Write-back stage may act (R12, R213). -/
abbrev wbStartTick : Nat := 7

/-- The largest instruction count the count port accepts (R13, R56). -/
abbrev maxCount : Nat := 2048

/-- What a memory word that nothing has written reads as: its reset contents (R60). -/
def unlistedWord : Word := 0

end Sys2Proof.Config
end

