-- ==== Sys2Proof/Syntax.lean ====
section
/-! DEFINITION. The instructions: one constructor per row of spec/opcode_table.json. -/

namespace Sys2Proof

/-- The layout of an opcode (R102 to R106, R114). -/
inductive OpClass
  /-- rA, rB, rC. -/
  | r
  /-- rA, rB, immediate. -/
  | i
  /-- address only. -/
  | j
  /-- rA, rB, shift amount: the layout the spec gives LSL and LSR (R105). -/
  | s
  deriving DecidableEq, Repr

/-- An operand-level instruction (R131). Immediates are carried as the decoder delivers them, sign-extended to 32 bits
(R107, R112); `Instr.wf` says which of them the 18-bit field can hold. -/
inductive Instr
  /-- R140. -/
  | add (ra rb rc : RegIdx)
  /-- R141. -/
  | sub (ra rb rc : RegIdx)
  /-- R142. -/
  | mul (ra rb rc : RegIdx)
  /-- R145; field B carries no meaning (R104). -/
  | movi (ra : RegIdx) (imm : Word)
  /-- R182. -/
  | jeq (ra rb : RegIdx) (imm : Word)
  /-- R143. -/
  | and (ra rb rc : RegIdx)
  /-- R144. -/
  | xori (ra rb : RegIdx) (imm : Word)
  /-- R186. -/
  | jmp (addr : Addr)
  /-- R160. -/
  | lsl (ra rb : RegIdx) (shamt : Shamt)
  /-- R161. -/
  | lsr (ra rb : RegIdx) (shamt : Shamt)
  /-- R170. -/
  | movr (ra rb : RegIdx) (imm : Word)
  /-- R171. -/
  | movm (ra rb : RegIdx) (imm : Word)
  /-- R200: opcodes 12 to 15, whose other 28 bits are free. -/
  | undef (op : Opcode) (rest : Addr)
  deriving DecidableEq, Repr

/-- The opcode of each instruction (R120). -/
def Instr.opcode : Instr → Opcode
  | .add _ _ _ => 0
  | .sub _ _ _ => 1
  | .mul _ _ _ => 2
  | .movi _ _ => 3
  | .jeq _ _ _ => 4
  | .and _ _ _ => 5
  | .xori _ _ _ => 6
  | .jmp _ => 7
  | .lsl _ _ _ => 8
  | .lsr _ _ _ => 9
  | .movr _ _ _ => 10
  | .movm _ _ _ => 11
  | .undef op _ => op

/-- `NOP`, the one alias: `ADD R0, R0, R0` (R124, R132). -/
def Instr.nop : Instr := .add 0 0 0

end Sys2Proof
end

