-- ==== Sys2Proof/WellFormed.lean ====
section
/-! DEFINITION. Which operand-level instructions have an encoding. Register indices, shift amounts and addresses fit their
fields by their types; what is left of the range check of R111 is the immediate, and of the opcode map that UNDEF stands
for opcodes 12 to 15 only (R200). -/

namespace Sys2Proof

/-- An immediate fits the signed 18-bit field: -131072 to 131071 (R101, R111). -/
def immFits (imm : Word) : Bool := decide (-131072 ≤ imm.toInt) && decide (imm.toInt ≤ 131071)

/-- Well-formed instructions. -/
def Instr.wf : Instr → Bool
  | .add _ _ _ => true
  | .sub _ _ _ => true
  | .mul _ _ _ => true
  | .movi _ imm => immFits imm
  | .jeq _ _ imm => immFits imm
  | .and _ _ _ => true
  | .xori _ _ imm => immFits imm
  | .jmp _ => true
  | .lsl _ _ _ => true
  | .lsr _ _ _ => true
  | .movr _ _ imm => immFits imm
  | .movm _ _ imm => immFits imm
  | .undef op _ => decide (12 ≤ op.toNat)

end Sys2Proof
end

