-- ==== Sys2Proof/Decode.lean ====
section
/-! DEFINITION. The Instruction Codec (file 30): the decoder block, the instruction it stands for, the encoder block with
its range checks, and the encoder of operand-level instructions. -/

namespace Sys2Proof

/-! ### The decoder block -/

/-- The decoder's outputs (R59, R112). -/
structure Fields where
  op : Opcode
  rA : RegIdx
  rB : RegIdx
  rC : RegIdx
  shamt : Shamt
  imm : Word
  addr : Addr
  deriving DecidableEq, Repr

/-- All fields 0: what a slot holds at reset and after a fetch (R60, R222). -/
def Fields.zero : Fields := { op := 0, rA := 0, rB := 0, rC := 0, shamt := 0, imm := 0, addr := 0 }

/-- The field `word[31:28]` (R101). -/
def fieldOp (w : Word) : Opcode := w.extractLsb' 28 4

/-- The field A, `word[27:23]` (R101). -/
def fieldA (w : Word) : RegIdx := w.extractLsb' 23 5

/-- The field B, `word[22:18]` (R101). -/
def fieldB (w : Word) : RegIdx := w.extractLsb' 18 5

/-- The field C, `word[17:13]` (R101). -/
def fieldC (w : Word) : RegIdx := w.extractLsb' 13 5

/-- The field shamt, `word[12:0]` (R101, R109). -/
def fieldShamt (w : Word) : Shamt := w.extractLsb' 0 13

/-- `sext_32` of an 18-bit field (R15, R107, R108). -/
def sext18 (v : BitVec 18) : Word := v.signExtend 32

/-- The immediate, `sext_32(word[17:0])` (R107, R112). -/
def fieldImm (w : Word) : Word := sext18 (w.extractLsb' 0 18)

/-- The field address, `word[27:0]` (R101, R109). -/
def fieldAddr (w : Word) : Addr := w.extractLsb' 0 28

/-- The decoder: every field of every word, unconditionally (R112, R113). -/
def decodeFields (w : Word) : Fields :=
  { op := fieldOp w, rA := fieldA w, rB := fieldB w, rC := fieldC w, shamt := fieldShamt w, imm := fieldImm w,
    addr := fieldAddr w }

/-- The instruction a set of decoded fields stands for: the opcode alone selects it, and it keeps the fields that are
meaningful to the opcode (R116, R120, R122). -/
def Fields.instr (f : Fields) : Instr :=
  match f.op.toNat with
  | 0 => .add f.rA f.rB f.rC
  | 1 => .sub f.rA f.rB f.rC
  | 2 => .mul f.rA f.rB f.rC
  | 3 => .movi f.rA f.imm
  | 4 => .jeq f.rA f.rB f.imm
  | 5 => .and f.rA f.rB f.rC
  | 6 => .xori f.rA f.rB f.imm
  | 7 => .jmp f.addr
  | 8 => .lsl f.rA f.rB f.shamt
  | 9 => .lsr f.rA f.rB f.shamt
  | 10 => .movr f.rA f.rB f.imm
  | 11 => .movm f.rA f.rB f.imm
  | _ => .undef f.op f.addr

/-- The instruction of a word. Total: decoding never fails (R113). -/
def decode (w : Word) : Instr := (decodeFields w).instr

/-- Why a list of words holds no instruction. -/
inductive DecodeError
  /-- The list is empty: there is no word to decode. No word is ever refused (R113). -/
  | noWord
  deriving DecidableEq, Repr

/-- The instruction at the head of a list of memory words, and the words after it: one word each (R100). -/
def decodeWords : List Word → Except DecodeError (Instr × List Word)
  | [] => .error .noWord
  | w :: ws => .ok (decode w, ws)

/-- The host's question: what the decoder reads from an instruction of the opcode table. Every instruction is one 32-bit
word (R100), so a row of more than 32 bits has no instruction. -/
def decodeTableWord (nbits w : Nat) : Option Instr :=
  if nbits ≤ 32 then
    match decodeWords [BitVec.ofNat 32 (w % 2 ^ nbits)] with
    | .ok (i, _) => some i
    | .error _ => none
  else none

/-! ### The encoder block -/

/-- `class_of(op)`; opcodes 12 to 15 have none (R114). -/
def classOf (op : Opcode) : Option OpClass :=
  match op.toNat with
  | 0 => some .r
  | 1 => some .r
  | 2 => some .r
  | 3 => some .i
  | 4 => some .i
  | 5 => some .r
  | 6 => some .i
  | 7 => some .j
  | 8 => some .s
  | 9 => some .s
  | 10 => some .i
  | 11 => some .i
  | _ => none

/-- The class input `enc_cls`: 0 = R, 1 = I, 2 = J, 3 = S (R110). -/
def classOfCode (cls : BitVec 2) : OpClass :=
  match cls.toNat with
  | 0 => .r
  | 1 => .i
  | 2 => .j
  | _ => .s

/-- The encoder's inputs: operands are 32-bit numbers, `imm` read as signed and the rest as unsigned (R59). -/
structure EncodeRequest where
  op : Opcode
  cls : BitVec 2
  a : Word
  b : Word
  c : Word
  shamt : Word
  imm : Word
  addr : Word
  deriving DecidableEq, Repr

/-- The encoder's outputs `enc_word` and `enc_err` (R59). -/
structure EncodeResult where
  word : Word
  err : Bool
  deriving DecidableEq, Repr

/-- A register operand fits its 5-bit field (R111). -/
def regFits (v : Word) : Bool := decide (v.toNat < 32)

/-- The range check of R111, over the operands the class uses. -/
def EncodeRequest.operandsFit (r : EncodeRequest) : Bool :=
  match classOfCode r.cls with
  | .r => regFits r.a && regFits r.b && regFits r.c
  | .i => regFits r.a && regFits r.b && immFits r.imm
  | .s => regFits r.a && regFits r.b && decide (r.shamt.toNat < 8192)
  | .j => decide (r.addr.toNat < 268435456)

/-- Whether the encoder accepts a request: the class is the opcode's (R115) and the operands fit (R111). -/
def EncodeRequest.accepted (r : EncodeRequest) : Bool :=
  decide (classOf r.op = some (classOfCode r.cls)) && r.operandsFit

/-- The word layouts of R103 to R106 and R110. -/
def packR (op : Opcode) (a b c : RegIdx) : Word := op ++ a ++ b ++ c ++ (0 : BitVec 13)

/-- The layout I of R104. -/
def packI (op : Opcode) (a b : RegIdx) (imm : BitVec 18) : Word := op ++ a ++ b ++ imm

/-- The layout S of R105. -/
def packS (op : Opcode) (a b : RegIdx) (shamt : Shamt) : Word := op ++ a ++ b ++ (0 : BitVec 5) ++ shamt

/-- The layout J of R106. -/
def packJ (op : Opcode) (addr : Addr) : Word := op ++ addr

/-- The bits the encoder packs (R110): the low bits of each operand the class uses. -/
def EncodeRequest.packed (r : EncodeRequest) : Word :=
  match classOfCode r.cls with
  | .r => packR r.op (r.a.setWidth 5) (r.b.setWidth 5) (r.c.setWidth 5)
  | .i => packI r.op (r.a.setWidth 5) (r.b.setWidth 5) (r.imm.setWidth 18)
  | .s => packS r.op (r.a.setWidth 5) (r.b.setWidth 5) (r.shamt.setWidth 13)
  | .j => packJ r.op (r.addr.setWidth 28)

/-- The encoder block: `enc_word` is 0 when `enc_err` is 1 (R110, R111, R115). -/
def encoder (r : EncodeRequest) : EncodeResult :=
  if r.accepted then { word := r.packed, err := false } else { word := 0, err := true }

/-! ### Encoding an instruction -/

/-- A request of class R. -/
def requestR (op : Opcode) (a b c : RegIdx) : EncodeRequest :=
  { op := op, cls := 0, a := a.setWidth 32, b := b.setWidth 32, c := c.setWidth 32, shamt := 0, imm := 0, addr := 0 }

/-- A request of class I. -/
def requestI (op : Opcode) (a b : RegIdx) (imm : Word) : EncodeRequest :=
  { op := op, cls := 1, a := a.setWidth 32, b := b.setWidth 32, c := 0, shamt := 0, imm := imm, addr := 0 }

/-- A request of class J. -/
def requestJ (op : Opcode) (addr : Addr) : EncodeRequest :=
  { op := op, cls := 2, a := 0, b := 0, c := 0, shamt := 0, imm := 0, addr := addr.setWidth 32 }

/-- A request of class S. -/
def requestS (op : Opcode) (a b : RegIdx) (shamt : Shamt) : EncodeRequest :=
  { op := op, cls := 3, a := a.setWidth 32, b := b.setWidth 32, c := 0, shamt := shamt.setWidth 32, imm := 0, addr := 0 }

/-- The word of a well-formed instruction: the encoder's answer to the request with the opcode's class (R115; for MOVI
field B is passed as 0, R104). The encoder refuses UNDEF, whose word is its own 32 bits (R200, R201; log 13). -/
def encode : Instr → Word
  | .add ra rb rc => (encoder (requestR 0 ra rb rc)).word
  | .sub ra rb rc => (encoder (requestR 1 ra rb rc)).word
  | .mul ra rb rc => (encoder (requestR 2 ra rb rc)).word
  | .movi ra imm => (encoder (requestI 3 ra 0 imm)).word
  | .jeq ra rb imm => (encoder (requestI 4 ra rb imm)).word
  | .and ra rb rc => (encoder (requestR 5 ra rb rc)).word
  | .xori ra rb imm => (encoder (requestI 6 ra rb imm)).word
  | .jmp addr => (encoder (requestJ 7 addr)).word
  | .lsl ra rb shamt => (encoder (requestS 8 ra rb shamt)).word
  | .lsr ra rb shamt => (encoder (requestS 9 ra rb shamt)).word
  | .movr ra rb imm => (encoder (requestI 10 ra rb imm)).word
  | .movm ra rb imm => (encoder (requestI 11 ra rb imm)).word
  | .undef op rest => packJ op rest

end Sys2Proof
end

