-- ==== Sys2Proof/Machine/State.lean ====
section
/-! DEFINITION. The state of the CORE as plain data (file 10), why a step can stop, and the state after reset (R60). -/

namespace Sys2Proof.Machine

/-- The context held by one pipeline slot (R44). Its fields op, rA, rB, rC, shamt, imm and addr, which only the Decode turn
writes, are `dec`. -/
structure Context where
  /-- 1 when the slot holds a fetched instruction, 0 for a bubble. -/
  valid : Bool
  /-- 1 suppresses every remaining effect. -/
  flush : Bool
  /-- The raw instruction word. -/
  word : Word
  /-- Own pc: the fetch address plus 1 (R181). -/
  pc : Word
  /-- op, rA, rB, rC, shamt, imm, addr. -/
  dec : Fields
  /-- x[rB] as read at Decode. -/
  valB : Word
  /-- x[rC] as read at Decode. -/
  valC : Word
  /-- The effective address. -/
  ea : Word
  /-- The value to be written to x[rA]. -/
  result : Word
  deriving DecidableEq, Repr

/-- A slot at reset: a bubble with every field 0 (R60). -/
def Context.bubble : Context :=
  { valid := false, flush := false, word := 0, pc := 0, dec := Fields.zero, valB := 0, valC := 0, ea := 0, result := 0 }

/-- Which stage has its turn in phase 2 of an advance (R212, R215). The model's own bookkeeping (log 3): `rest` between
advances and outside phase 2. -/
inductive Turn
  | rest
  | decode
  | execute
  | memory
  | writeback
  deriving DecidableEq, Repr

/-- The unified memory (R42, R70): the words that differ from their reset contents, by rising word address (log 1). -/
abbrev Memory := List (Nat × Word)

/-- The machine (file 10 R30 to R53). -/
structure State where
  /-- The register file x[0..31] (R30). -/
  regs : Vector Word 32
  /-- The program counter (R36). -/
  pc : Word
  /-- The unified memory of 2048 words (R42). -/
  mem : Memory
  /-- Slot F, Fetch-output (R43). -/
  F : Context
  /-- Slot D, Decode (R43). -/
  D : Context
  /-- Slot E, Execute (R43). -/
  E : Context
  /-- Slot M, Memory (R43). -/
  M : Context
  /-- Slot W, Writeback (R43). -/
  W : Context
  /-- The tick counter (R50; log 4). -/
  t : Nat
  /-- N, the instruction count register (R51). -/
  n : BitVec 12
  /-- Set by start, cleared by halt and abort (R52). -/
  running : Bool
  /-- The run ended normally (R52, R230). -/
  halted : Bool
  /-- The run ended on an out-of-bounds access (R52, R266). -/
  abort : Bool
  /-- 1 = out-of-bounds load, 2 = out-of-bounds store (R53). -/
  abortKind : BitVec 2
  /-- The offending effective address (R53). -/
  abortAddr : Word
  /-- The own pc of the offending instruction (R53). -/
  abortPc : Word
  /-- Whose turn it is inside an advance (the model's own field; log 3). -/
  turn : Turn
  deriving DecidableEq, Repr

/-- Why a step stops with a fault. -/
inductive Fault
  /-- Raised by Fetch when it would read a word address of 2048 or more, which the spec says no fetch does (R38, R74).
  Only a state whose count N is above 2048 can raise it, and the count port refuses such a count (R56). Safe: log 5. -/
  | fetchOutsideMemory (addr : Word)
  deriving DecidableEq, Repr

/-- Why an instruction is refused. -/
inductive Refusal
  /-- Raised by `exec` for an instruction without a meaning yet; none is left. Safe: the machine stops. -/
  | notModelled (mnemonic : String)
  deriving DecidableEq, Repr

/-- The machine right after reset (R60, R290): everything 0, five bubbles, not running. -/
def State.reset : State :=
  { regs := Vector.replicate 32 0, pc := 0, mem := [], F := Context.bubble, D := Context.bubble, E := Context.bubble,
    M := Context.bubble, W := Context.bubble, t := 0, n := 0, running := false, halted := false, abort := false,
    abortKind := 0, abortAddr := 0, abortPc := 0, turn := .rest }

end Sys2Proof.Machine
end

