-- ==== Sys2Proof/Machine/Ops.lean ====
section
/-! DEFINITION. The named operations: registers (R31, R32), memory (R70 to R75), the abort (R266), the redirect of the
program counter (R37), and the sequencing of outcomes. -/

namespace Sys2Proof.Machine

/-! ### Registers -/

/-- Read `x[i]`: register 0 reads 0 through every port (R31). -/
def State.readReg (s : State) (i : RegIdx) : Word :=
  if i = 0 then 0 else s.regs[i.toNat]'i.isLt

/-- Write `x[i] <- v`: the pair `regs[i] <- v`, then `regs[0] <- 0` (R32). -/
def State.writeReg (s : State) (i : RegIdx) (v : Word) : State :=
  { s with regs := (s.regs.set i.toNat v i.isLt).set 0 0 }

/-! ### Memory -/

/-- The word at a word address; an unlisted word holds its reset contents (R60). -/
def Memory.read : Memory → Nat → Word
  | [], _ => Config.unlistedWord
  | (k, v) :: m, a => if k = a then v else Memory.read m a

/-- Store a word, keeping the canonical form: rising addresses, no word equal to its reset contents (log 1). -/
def Memory.write : Memory → Nat → Word → Memory
  | [], a, v => if v = Config.unlistedWord then [] else [(a, v)]
  | (k, w) :: m, a, v =>
    if a < k then (if v = Config.unlistedWord then (k, w) :: m else (a, v) :: (k, w) :: m)
    else if a = k then (if v = Config.unlistedWord then m else (a, v) :: m)
    else (k, w) :: Memory.write m a v

/-- The canonical form from address `lo` on. -/
def Memory.wfFrom (lo : Nat) : Memory → Bool
  | [] => true
  | (k, v) :: m =>
    decide (lo ≤ k) && decide (k < Config.memWords) && decide (v ≠ Config.unlistedWord) && Memory.wfFrom (k + 1) m

/-- The canonical form: strictly rising addresses below 2048, no word equal to its reset contents. -/
def Memory.wf (m : Memory) : Bool := Memory.wfFrom 0 m

/-- An address is in range when its unsigned reading is below 2048 (R74). -/
def inBounds (addr : Word) : Bool := decide (addr.toNat < Config.memWords)

/-- `MemRead(addr, 1)`: none when the address is out of bounds, where memory is not touched (R17, R74). -/
def State.memRead (s : State) (addr : Word) : Option Word :=
  if inBounds addr then some (Memory.read s.mem addr.toNat) else none

/-- One word of memory stored. -/
def State.storeWord (s : State) (addr v : Word) : State := { s with mem := Memory.write s.mem addr.toNat v }

/-- `MemWrite(addr, 1, v)`: none when the address is out of bounds, where memory is not touched (R17, R74). -/
def State.memWrite (s : State) (addr v : Word) : Option State :=
  if inBounds addr then some (s.storeWord addr v) else none

/-- Memory's `c.result <- v` of a load (R218). -/
def State.setLoaded (s : State) (v : Word) : State := { s with M := { s.M with result := v } }

/-! ### The abort -/

/-- The code `abort_kind` of an out-of-bounds load (R53). -/
def abortLoad : BitVec 2 := 1

/-- The code `abort_kind` of an out-of-bounds store (R53). -/
def abortStore : BitVec 2 := 2

/-- `raise Abort(OutOfBounds, ea)` for the context in M (R266): the one way a run ends on an error. There is no handler and no
return (R269). That the rest of the advance is skipped is `advance`'s part. -/
def State.raiseAbort (s : State) (kind : BitVec 2) : State :=
  { s with abort := true, abortKind := kind, abortAddr := s.M.ea, abortPc := s.M.pc, running := false }

/-! ### The program counter -/

/-- `pc <- target` by a taken JEQ or JMP (R37). -/
def State.redirect (s : State) (target : Word) : State := { s with pc := target }

/-! ### Outcomes -/

/-- Go on with `f` after a next state; a fault or a refusal ends the step. -/
def andThen (o : Host.Outcome State Fault Refusal) (f : State → Host.Outcome State Fault Refusal) :
    Host.Outcome State Fault Refusal :=
  match o with
  | .next s => f s
  | .fault r => .fault r
  | .refused r => .refused r

end Sys2Proof.Machine
end

