-- ==== Sys2Proof/Machine/Operands.lean ====
section
/-! DEFINITION. The operand forms: registers latched at Decode, the immediate, the shift amount, base plus displacement, and the
jump target; and the Decode and Write-back turns every instruction shares. -/

namespace Sys2Proof.Machine

/-- The Decode turn (R220): every field from the word, then `valB` and `valC` from read ports 1 and 2. `rb` and `rc` are the
indices in fields B and C of the word (R34, R122). -/
def State.latchOperands (s : State) (rb rc : RegIdx) : State :=
  { s with
    D := { s.D with dec := decodeFields s.D.word, valB := s.readReg rb, valC := s.readReg rc } }

/-- Field B of the word in Decode, for an opcode whose field B is no operand (R34, R122). -/
def State.bitsB (s : State) : RegIdx := fieldB s.D.word

/-- Field C of the word in Decode, for an opcode whose field C is no operand (R34, R122). -/
def State.bitsC (s : State) : RegIdx := fieldC s.D.word

/-- Execute's `c.result <- v` (R146, R219). -/
def State.setResult (s : State) (v : Word) : State := { s with E := { s.E with result := v } }

/-- Execute's `c.ea <- valB + imm`, modulo 2^32 (R172). -/
def State.setEa (s : State) (imm : Word) : State := { s with E := { s.E with ea := s.E.valB + imm } }

/-- The stage pattern of the instructions that compute a value (R146, R163): operands at Decode, the value at Execute from the
context alone, nothing at Memory, `x[ra] <- result` at Write-back. -/
def State.valueTurns (s : State) (ra rb rc : RegIdx) (value : Context → Word) : State :=
  match s.turn with
  | .rest => s
  | .decode => s.latchOperands rb rc
  | .execute => s.setResult (value s.E)
  | .memory => s
  | .writeback => s.writeReg ra s.W.result

/-- LSL's value: the low 32 bits of `v * 2^n`, and 0 for `n >= 32` (R160, R162). -/
def shiftLeft (v : Word) (n : Shamt) : Word :=
  if n.toNat < 32 then BitVec.ofNat 32 (v.toNat * 2 ^ n.toNat) else 0

/-- LSR's value: the quotient of the unsigned reading by `2^n`, and 0 for `n >= 32` (R161, R162). -/
def shiftRight (v : Word) (n : Shamt) : Word :=
  if n.toNat < 32 then BitVec.ofNat 32 (v.toNat / 2 ^ n.toNat) else 0

/-- JMP's target: bits 31:28 of the program counter as it stands, bits 27:0 of the instruction (R186, R187). -/
def State.jumpTarget (s : State) (addr : Addr) : Word := s.pc.extractLsb' 28 4 ++ addr

end Sys2Proof.Machine
end

