-- ==== Sys2Proof/Machine/ArithLogic.lean ====
section
/-! DEFINITION. ADD, SUB, MUL, AND, XORI, MOVI (file 40). -/

namespace Sys2Proof.Machine

open Host (Outcome)

/-- ADD (R140): the sum modulo 2^32. -/
def execAdd (ra rb rc : RegIdx) (s : State) : Outcome State Fault Refusal :=
  .next (s.valueTurns ra rb rc fun c => c.valB + c.valC)

/-- SUB (R141): field B minus field C, modulo 2^32. -/
def execSub (ra rb rc : RegIdx) (s : State) : Outcome State Fault Refusal :=
  .next (s.valueTurns ra rb rc fun c => c.valB - c.valC)

/-- MUL (R142): the low 32 bits of the product. -/
def execMul (ra rb rc : RegIdx) (s : State) : Outcome State Fault Refusal :=
  .next (s.valueTurns ra rb rc fun c => c.valB * c.valC)

/-- AND (R143). -/
def execAnd (ra rb rc : RegIdx) (s : State) : Outcome State Fault Refusal :=
  .next (s.valueTurns ra rb rc fun c => c.valB &&& c.valC)

/-- XORI (R144): the immediate is the sign-extended one (R109). -/
def execXori (ra rb : RegIdx) (imm : Word) (s : State) : Outcome State Fault Refusal :=
  .next (s.valueTurns ra rb s.bitsC fun c => c.valB ^^^ imm)

/-- MOVI (R145): the sign-extended immediate; the operands latched at Decode are not used. -/
def execMovi (ra : RegIdx) (imm : Word) (s : State) : Outcome State Fault Refusal :=
  .next (s.valueTurns ra s.bitsB s.bitsC fun _ => imm)

end Sys2Proof.Machine
end

