-- ==== Sys2Proof/Machine/Flags.lean ====
section
/-! DEFINITION. The hardware has no status flags (R40): no instruction computes one. What it has is the flush flag of a context
(R46, R189) and the live test (R216). -/

namespace Sys2Proof.Machine

/-- `live(S)`: valid and not flushed (R18, R216). -/
def Context.live (c : Context) : Bool := c.valid && !c.flush

/-- `D.flush <- 1`, whatever D holds (R189). -/
def State.markD (s : State) : State := { s with D := { s.D with flush := true } }

/-- `F.flush <- 1`, whatever F holds (R189). -/
def State.markF (s : State) : State := { s with F := { s.F with flush := true } }

end Sys2Proof.Machine
end

