-- ==== Sys2Proof/Machine/Control.lean ====
section
/-! DEFINITION. JEQ, JMP and the flush control (file 43). -/

namespace Sys2Proof.Machine

open Host (Outcome)

/-- The Execute turn of JEQ (R182): the registers are read now; own pc is `s.E.pc`. -/
def State.jeqTurn (s : State) (ra rb : RegIdx) (imm : Word) : State :=
  if s.readReg ra = s.readReg rb then
    if imm.toInt = 1 then s.markD
    else if 1 < imm.toInt then s.markF.markD.redirect (s.E.pc + imm)
    else s
  else s

/-- The Execute turn of JMP (R186): the three tests in the order written. -/
def State.jmpTurn (s : State) (addr : Addr) : State :=
  if s.jumpTarget addr = s.E.pc + 1 then s.markD
  else if s.jumpTarget addr ≠ s.E.pc then s.markF.markD.redirect (s.jumpTarget addr)
  else s

/-- JEQ (R182). -/
def execJeq (ra rb : RegIdx) (imm : Word) (s : State) : Outcome State Fault Refusal :=
  match s.turn with
  | .rest => .next s
  | .decode => .next (s.latchOperands rb s.bitsC)
  | .execute => .next (s.jeqTurn ra rb imm)
  | .memory => .next s
  | .writeback => .next s

/-- JMP (R186). -/
def execJmp (addr : Addr) (s : State) : Outcome State Fault Refusal :=
  match s.turn with
  | .rest => .next s
  | .decode => .next (s.latchOperands s.bitsB s.bitsC)
  | .execute => .next (s.jmpTurn addr)
  | .memory => .next s
  | .writeback => .next s

end Sys2Proof.Machine
end

