-- ==== Sys2Proof/Machine/LoadStore.lean ====
section
/-! DEFINITION. MOVR, MOVM (file 42). -/

namespace Sys2Proof.Machine

open Host (Outcome)

/-- The Memory turn of a load: `c.result <- MemRead(c.ea, 1)`, or the abort (R170, R173, R218). -/
def State.loadTurn (s : State) : State :=
  match s.memRead s.M.ea with
  | some v => s.setLoaded v
  | none => s.raiseAbort abortLoad

/-- The Memory turn of a store: `MemWrite(c.ea, 1, x[ra])` with the register read now, or the abort (R171, R173, R218). -/
def State.storeTurn (s : State) (ra : RegIdx) : State :=
  match s.memWrite s.M.ea (s.readReg ra) with
  | some s' => s'
  | none => s.raiseAbort abortStore

/-- MOVR (R170). -/
def execMovr (ra rb : RegIdx) (imm : Word) (s : State) : Outcome State Fault Refusal :=
  match s.turn with
  | .rest => .next s
  | .decode => .next (s.latchOperands rb s.bitsC)
  | .execute => .next (s.setEa imm)
  | .memory => .next s.loadTurn
  | .writeback => .next (s.writeReg ra s.W.result)

/-- MOVM (R171): `ra` names the register stored; no register is written. -/
def execMovm (ra rb : RegIdx) (imm : Word) (s : State) : Outcome State Fault Refusal :=
  match s.turn with
  | .rest => .next s
  | .decode => .next (s.latchOperands rb s.bitsC)
  | .execute => .next (s.setEa imm)
  | .memory => .next (s.storeTurn ra)
  | .writeback => .next s

end Sys2Proof.Machine
end

