-- ==== Sys2Proof/Machine/Shift.lean ====
section
/-! DEFINITION. LSL, LSR (file 41). -/

namespace Sys2Proof.Machine

open Host (Outcome)

/-- LSL (R160). -/
def execLsl (ra rb : RegIdx) (shamt : Shamt) (s : State) : Outcome State Fault Refusal :=
  .next (s.valueTurns ra rb s.bitsC fun c => shiftLeft c.valB shamt)

/-- LSR (R161). -/
def execLsr (ra rb : RegIdx) (shamt : Shamt) (s : State) : Outcome State Fault Refusal :=
  .next (s.valueTurns ra rb s.bitsC fun c => shiftRight c.valB shamt)

end Sys2Proof.Machine
end

