-- ==== Sys2Proof/Machine/Undefined.lean ====
section
/-! DEFINITION. Opcodes 12 to 15 (file 44). -/

namespace Sys2Proof.Machine

open Host (Outcome)

/-- The immediate in the free bits of an UNDEF word (R112, R200). -/
def undefImm (rest : Addr) : Word := sext18 (rest.extractLsb' 0 18)

/-- UNDEF (R200): Decode and the address computation of Execute, then nothing. The opcode makes no difference. -/
def execUndef (rest : Addr) (s : State) : Outcome State Fault Refusal :=
  match s.turn with
  | .rest => .next s
  | .decode => .next (s.latchOperands s.bitsB s.bitsC)
  | .execute => .next (s.setEa (undefImm rest))
  | .memory => .next s
  | .writeback => .next s

end Sys2Proof.Machine
end

