-- ==== Sys2Proof/Machine/Dispatch.lean ====
section
/-! DEFINITION. One arm per instruction. `exec i s` is what instruction `i` does in the turn `s.turn` names (log 11). -/

namespace Sys2Proof.Machine

open Host (Outcome)

def exec (i : Instr) (s : State) : Outcome State Fault Refusal :=
  match i with
  | .add ra rb rc => Sys2Proof.Machine.execAdd ra rb rc s
  | .sub ra rb rc => Sys2Proof.Machine.execSub ra rb rc s
  | .mul ra rb rc => Sys2Proof.Machine.execMul ra rb rc s
  | .movi ra imm => Sys2Proof.Machine.execMovi ra imm s
  | .jeq ra rb imm => Sys2Proof.Machine.execJeq ra rb imm s
  | .and ra rb rc => Sys2Proof.Machine.execAnd ra rb rc s
  | .xori ra rb imm => Sys2Proof.Machine.execXori ra rb imm s
  | .jmp addr => Sys2Proof.Machine.execJmp addr s
  | .lsl ra rb shamt => Sys2Proof.Machine.execLsl ra rb shamt s
  | .lsr ra rb shamt => Sys2Proof.Machine.execLsr ra rb shamt s
  | .movr ra rb imm => Sys2Proof.Machine.execMovr ra rb imm s
  | .movm ra rb imm => Sys2Proof.Machine.execMovm ra rb imm s
  | .undef _ rest => Sys2Proof.Machine.execUndef rest s

end Sys2Proof.Machine
end

