-- ==== Sys2Proof/Machine/Engine.lean ====
section
/-! DEFINITION. The parts of an advance that no instruction decides (file 45): the tick, the copies, the gates, Fetch and the
halt test. -/

namespace Sys2Proof.Machine

open Host (Outcome)

/-- The tick is even: the D and E input copies and the Memory, Execute and Decode turns are enabled (R213). -/
def State.evenTick (s : State) : Bool := s.t % 2 == 0

/-- `t <- t + 1` (R211). -/
def State.tick (s : State) : State := { s with t := s.t + 1 }

/-- Phase 1 (R212, R214): W <- M, M <- E on every tick; E <- D, D <- F on even ticks. Each slot is read before it is
overwritten. -/
def State.copies (s : State) : State :=
  if s.evenTick then { s with W := s.M, M := s.E, E := s.D, D := s.F }
  else { s with W := s.M, M := s.E }

/-- Everything of an advance before the first turn: the tick and the copies. -/
def State.beginTick (s : State) : State := s.tick.copies

/-- Write-back acts: odd ticks from 7, on a live context (R213, R216). -/
def State.writebackActs (s : State) : Bool := !s.evenTick && decide (Config.wbStartTick ≤ s.t) && s.W.live

/-- Memory acts: even ticks from 6, on a live context (R213, R216). -/
def State.memoryActs (s : State) : Bool := s.evenTick && decide (Config.memStartTick ≤ s.t) && s.M.live

/-- Execute acts: even ticks, on a live context (R213, R216). -/
def State.executeActs (s : State) : Bool := s.evenTick && s.E.live

/-- Decode acts: even ticks, on a live context (R213, R216). -/
def State.decodeActs (s : State) : Bool := s.evenTick && s.D.live

/-- `u32(pc) < N` (R38, R222). -/
def State.pcInProgram (s : State) : Bool := decide (s.pc.toNat < s.n.toNat)

/-- `fetch()` with the word read (R222): F gets a fresh context, every other field 0, and pc advances. -/
def State.fetchWord (s : State) (w : Word) : State :=
  { s with
    F := { Context.bubble with valid := true, word := w, pc := s.pc + 1 }
    pc := s.pc + 1 }

/-- `F.valid <- 0` (R223). -/
def State.fetchBubble (s : State) : State := { s with F := { s.F with valid := false } }

/-- Phase 3 (R212, R222, R223): Fetch on odd ticks. -/
def State.fetchPhase (s : State) : Outcome State Fault Refusal :=
  if s.evenTick then .next s
  else if s.pcInProgram then
    match s.memRead s.pc with
    | some w => .next (s.fetchWord w)
    | none => .fault (.fetchOutsideMemory s.pc)
  else .next s.fetchBubble

/-- The condition of the halt test: `u32(pc) >= N` and none of F, D, E, M live (R230). -/
def State.drained (s : State) : Bool :=
  !s.pcInProgram && !s.F.live && !s.D.live && !s.E.live && !s.M.live

/-- `halted <- 1`, `running <- 0` (R230). -/
def State.halt (s : State) : State := { s with halted := true, running := false }

/-- The stage whose turn it is (log 3). -/
def State.setTurn (s : State) (turn : Turn) : State := { s with turn := turn }

/-- The halt test (R230): end the run when it is drained. -/
def State.haltTest (s : State) : State :=
  if s.drained then s.halt else s

end Sys2Proof.Machine
end

