-- ==== Sys2Proof/Machine/Advance.lean ====
section
/-! DEFINITION. One advance (R212): the turns of the instructions in the slots, in the order Write-back, Memory, Execute, Decode
(R215), between the copies and Fetch. -/

namespace Sys2Proof.Machine

open Host (Outcome)

/-- Run instruction `i` in the named turn, and leave the turn (log 3). -/
def State.giveTurn (s : State) (turn : Turn) (i : Instr) : Outcome State Fault Refusal :=
  andThen (exec i (s.setTurn turn)) fun s' => .next (s'.setTurn .rest)

/-- The Write-back turn: dispatch on the decoded fields in W (R217). -/
def State.writebackPhase (s : State) : Outcome State Fault Refusal :=
  if s.writebackActs then s.giveTurn .writeback s.W.dec.instr else .next s

/-- The Memory turn: dispatch on the decoded fields in M (R218). -/
def State.memoryPhase (s : State) : Outcome State Fault Refusal :=
  if s.memoryActs then s.giveTurn .memory s.M.dec.instr else .next s

/-- The Execute turn: dispatch on the decoded fields in E (R219). -/
def State.executePhase (s : State) : Outcome State Fault Refusal :=
  if s.executeActs then s.giveTurn .execute s.E.dec.instr else .next s

/-- The Decode turn: the instruction is decoded from the word in D (R220). -/
def State.decodePhase (s : State) : Outcome State Fault Refusal :=
  if s.decodeActs then s.giveTurn .decode (decode s.D.word) else .next s

/-- What follows the Memory turn: Execute, Decode, Fetch, the halt test; nothing after an abort (R212, R266). -/
def State.afterMemory (s : State) : Outcome State Fault Refusal :=
  if s.abort then .next s
  else
    andThen s.executePhase fun s =>
      andThen s.decodePhase fun s =>
        andThen s.fetchPhase fun s => .next s.haltTest

/-- `advance()` (R212). -/
def advance (s : State) : Outcome State Fault Refusal :=
  andThen s.beginTick.writebackPhase fun s =>
    andThen s.memoryPhase fun s => s.afterMemory

/-- The state in which the next tick decodes and runs a word as the first turn of its instruction: the word is loaded at the
address of the next fetch, the run is started and the fetch tick of the word has been made, so that slot F holds it (R77,
R222, R292; log 6). -/
def State.loadedAndFetched (s : State) (w : Word) : State :=
  { s with
    mem := if inBounds s.pc then Memory.write s.mem s.pc.toNat w else s.mem
    n := BitVec.ofNat 12 (s.pc.toNat + 1)
    t := 2 * (s.t / 2) + 1
    running := true
    halted := false
    abort := false
    turn := .rest
    F := { Context.bubble with valid := true, word := w, pc := s.pc + 1 }
    pc := s.pc + 1 }

end Sys2Proof.Machine
end

