-- ==== Sys2Proof/Machine/Step.lean ====
section
/-! DEFINITION. One step: a rising edge of `clk` with no port asserted (R55). -/

namespace Sys2Proof.Machine

open Host (Outcome)

/-- One advance while `running` is 1, and nothing while it is 0 (R52, R55, R284). -/
def step (s : State) : Outcome State Fault Refusal :=
  if s.running then advance s else .next s

/-- The host's question: an instruction's bits placed so that the very next step decodes it and gives it its first turn
(log 6). -/
def State.withFetchWord (s : State) (nbits w : Nat) : State :=
  s.loadedAndFetched (BitVec.ofNat 32 (w % 2 ^ nbits))

end Sys2Proof.Machine
end

