-- ==== Sys2Proof/Machine/NetEffect.lean ====
section
/-! DEFINITION. The net effect of each instruction, its one-at-a-time reading (R19, R235). The stage actions in the families' files
are the normative ones; `step` uses nothing of this file. -/

namespace Sys2Proof.Machine

/-- The register and the value an instruction that computes its value in Execute writes (R140 to R145, R160, R161). -/
def netValue (i : Instr) (s : State) : Option (RegIdx × Word) :=
  match i with
  | .add ra rb rc => some (ra, s.readReg rb + s.readReg rc)
  | .sub ra rb rc => some (ra, s.readReg rb - s.readReg rc)
  | .mul ra rb rc => some (ra, s.readReg rb * s.readReg rc)
  | .movi ra imm => some (ra, imm)
  | .jeq _ _ _ => none
  | .and ra rb rc => some (ra, s.readReg rb &&& s.readReg rc)
  | .xori ra rb imm => some (ra, s.readReg rb ^^^ imm)
  | .jmp _ => none
  | .lsl ra rb shamt => some (ra, shiftLeft (s.readReg rb) shamt)
  | .lsr ra rb shamt => some (ra, shiftRight (s.readReg rb) shamt)
  | .movr _ _ _ => none
  | .movm _ _ _ => none
  | .undef _ _ => none

/-- The address an instruction loads from or stores to, base plus displacement (R172). -/
def netAddress (i : Instr) (s : State) : Option Word :=
  match i with
  | .movr _ rb imm => some (s.readReg rb + imm)
  | .movm _ rb imm => some (s.readReg rb + imm)
  | .add _ _ _ | .sub _ _ _ | .mul _ _ _ | .movi _ _ | .jeq _ _ _ | .and _ _ _ | .xori _ _ _ | .jmp _ | .lsl _ _ _ | .lsr _ _ _ |
      .undef _ _ => none

/-- The register and the value an instruction of the write-back set writes (R121): the value computed in Execute, or the word
loaded from inside memory (R170). -/
def netWrite (i : Instr) (s : State) : Option (RegIdx × Word) :=
  match i with
  | .movr ra rb imm =>
    if inBounds (s.readReg rb + imm) then some (ra, Memory.read s.mem (s.readReg rb + imm).toNat) else none
  | .add _ _ _ | .sub _ _ _ | .mul _ _ _ | .movi _ _ | .jeq _ _ _ | .and _ _ _ | .xori _ _ _ | .jmp _ | .lsl _ _ _ | .lsr _ _ _ |
      .movm _ _ _ | .undef _ _ => netValue i s

/-- The net effect on registers and memory, for an access inside memory (R140 to R145, R160, R161, R170, R171, R183, R188, R200). -/
def netEffect (i : Instr) (s : State) : State :=
  match i with
  | .movr ra rb imm => s.writeReg ra (Memory.read s.mem (s.readReg rb + imm).toNat)
  | .movm ra rb imm => { s with mem := Memory.write s.mem (s.readReg rb + imm).toNat (s.readReg ra) }
  | .jeq _ _ _ | .jmp _ | .undef _ _ => s
  | .add _ _ _ | .sub _ _ _ | .mul _ _ _ | .movi _ _ | .and _ _ _ | .xori _ _ _ | .lsl _ _ _ | .lsr _ _ _ =>
    match netValue i s with
    | some (ra, v) => s.writeReg ra v
    | none => s

/-- A transfer of control that discards the instruction behind it (R182, R186): equal registers and an offset of 1 or more, or a
jump elsewhere than to the next address. `a` is the address of the instruction. -/
def netTaken (i : Instr) (s : State) (a : Word) : Bool :=
  match i with
  | .jeq ra rb imm => decide (s.readReg ra = s.readReg rb) && decide (1 ≤ imm.toInt)
  | .jmp addr => decide (addr.setWidth 32 ≠ a + 1)
  | .add _ _ _ | .sub _ _ _ | .mul _ _ _ | .movi _ _ | .and _ _ _ | .xori _ _ _ | .lsl _ _ _ | .lsr _ _ _ | .movr _ _ _ | .movm _ _ _ |
      .undef _ _ => false

/-- The address of the next instruction (R183, R187, R188). -/
def netNext (i : Instr) (s : State) (a : Word) : Word :=
  match i with
  | .jeq ra rb imm => if s.readReg ra = s.readReg rb ∧ 1 ≤ imm.toInt then a + 1 + imm else a + 1
  | .jmp addr => addr.setWidth 32
  | .add _ _ _ | .sub _ _ _ | .mul _ _ _ | .movi _ _ | .and _ _ _ | .xori _ _ _ | .lsl _ _ _ | .lsr _ _ _ | .movr _ _ _ | .movm _ _ _ |
      .undef _ _ => a + 1

end Sys2Proof.Machine
end

