-- ==== Sys2Proof/Machine/Ports.lean ====
section
/-! DEFINITION. The ports of the CORE (file 10 section 7): a clock edge with the host's inputs, and what the host can read. -/

namespace Sys2Proof.Machine

open Host (Outcome)

/-! ### Inputs -/

/-- The input ports at one rising edge of `clk` (R55, R56). -/
structure Inputs where
  rst : Bool
  ldWe : Bool
  ldAddr : BitVec 11
  ldData : Word
  seedWe : Bool
  seedIdx : RegIdx
  seedData : Word
  nWe : Bool
  nData : BitVec 12
  start : Bool
  deriving DecidableEq, Repr

/-- No port asserted. -/
def Inputs.none : Inputs :=
  { rst := false, ldWe := false, ldAddr := 0, ldData := 0, seedWe := false, seedIdx := 0, seedData := 0, nWe := false,
    nData := 0, start := false }

/-- The load port: one memory word per clock (R56). -/
def State.hostLoad (s : State) (addr : BitVec 11) (v : Word) : State :=
  { s with mem := Memory.write s.mem addr.toNat v }

/-- The seed port: one register per clock, with the semantics of R32 (R56). -/
def State.hostSeed (s : State) (i : RegIdx) (v : Word) : State := s.writeReg i v

/-- The count port: a value above 2048 is refused (R56). -/
def State.hostCount (s : State) (v : BitVec 12) : State :=
  if v.toNat ≤ Config.maxCount then { s with n := v } else s

/-- The start port: ignored after a halt or an abort, else `running <- 1` and the halt test once before any tick (R56, R232). -/
def State.hostStart (s : State) : State :=
  if s.halted || s.abort then s else State.haltTest { s with running := true }

/-- The load, seed, count and start ports at one edge while `running` is 0; the writes come before the start (log 7). -/
def State.applyPorts (s : State) (p : Inputs) : State :=
  let s := if p.ldWe then s.hostLoad p.ldAddr p.ldData else s
  let s := if p.seedWe then s.hostSeed p.seedIdx p.seedData else s
  let s := if p.nWe then s.hostCount p.nData else s
  if p.start then s.hostStart else s

/-- A rising edge of `clk`: reset wins over everything, the load ports are ignored while running (R55, R56, R290). -/
def clockEdge (p : Inputs) (s : State) : Outcome State Fault Refusal :=
  if p.rst then .next State.reset
  else if s.running then step s
  else .next (s.applyPorts p)

/-! ### Outputs -/

/-- The status ports (R57). -/
structure Status where
  running : Bool
  halted : Bool
  abort : Bool
  abortKind : BitVec 2
  abortAddr : Word
  abortPc : Word
  pcOut : Word
  tickOut : BitVec 32
  deriving DecidableEq, Repr

/-- What the status ports show (R57). -/
def State.status (s : State) : Status :=
  { running := s.running, halted := s.halted, abort := s.abort, abortKind := s.abortKind, abortAddr := s.abortAddr,
    abortPc := s.abortPc, pcOut := s.pc, tickOut := BitVec.ofNat 32 s.t }

/-- The port `dbg_reg_data` (R57). -/
def State.debugReg (s : State) (i : RegIdx) : Word := s.readReg i

/-- The port `dbg_mem_data` (R57). -/
def State.debugMem (s : State) (addr : BitVec 11) : Word := Memory.read s.mem addr.toNat

/-- What the trace port shows of one slot (R58). -/
structure SlotTrace where
  valid : Bool
  flush : Bool
  pc : Word
  word : Word
  deriving DecidableEq, Repr

/-- The trace of one context (R58). -/
def Context.trace (c : Context) : SlotTrace := { valid := c.valid, flush := c.flush, pc := c.pc, word := c.word }

/-- The trace port (R58): the five slots and the five event strobes of the advance just done. -/
structure Trace where
  slotF : SlotTrace
  slotD : SlotTrace
  slotE : SlotTrace
  slotM : SlotTrace
  slotW : SlotTrace
  evFetch : Bool
  evDecode : Bool
  evExecute : Bool
  evMemory : Bool
  evWriteback : Bool
  deriving DecidableEq, Repr

/-- What the trace port shows after an advance. The strobes are read off the state the advance left: a stage never changes
whether its own context is live, and an abort skips Execute and Decode (R216, R266; log 10). -/
def State.trace (s : State) : Trace :=
  { slotF := s.F.trace, slotD := s.D.trace, slotE := s.E.trace, slotM := s.M.trace, slotW := s.W.trace
    evFetch := !s.evenTick && s.F.valid
    evDecode := !s.abort && s.decodeActs
    evExecute := !s.abort && s.executeActs
    evMemory := s.memoryActs
    evWriteback := s.writebackActs }

end Sys2Proof.Machine
end

