-- ==== Sys2Proof/Safety.lean ====
section
/-! DEFINITION. The terms claims use: the invariant of the states between two clock edges, and states whose pipeline is ready for
a fetch with nothing in flight. -/

namespace Sys2Proof.Machine

/-- A valid context was fetched from inside memory: own pc is 1 to 2048 (R38, R44). -/
def Context.ownPcOk (c : Context) : Prop := c.valid = true → 1 ≤ c.pc.toNat ∧ c.pc.toNat ≤ Config.memWords

/-- A live context past its Decode turn holds the fields of its word (R220). -/
def Context.decoded (c : Context) : Prop := c.live = true → c.dec = decodeFields c.word

/-- The invariant of the machine between two clock edges. -/
structure State.Inv (s : State) : Prop where
  /-- Register 0 holds 0 (R31). -/
  zeroReg : s.regs[0] = 0
  /-- The memory is in canonical form (R42; log 1). -/
  memWf : Memory.wf s.mem = true
  /-- N is at most 2048 (R51). -/
  count : s.n.toNat ≤ Config.maxCount
  /-- No stage has its turn between advances (log 3). -/
  turn : s.turn = .rest
  /-- At most one of halted and abort (R52). -/
  exclusive : ¬ (s.halted = true ∧ s.abort = true)
  /-- A running machine has neither halted nor aborted (R52). -/
  runningClear : s.running = true → s.halted = false ∧ s.abort = false
  /-- Without an abort its registers are 0 (R53). -/
  abortClear : s.abort = false → s.abortKind = 0 ∧ s.abortAddr = 0 ∧ s.abortPc = 0
  /-- An abort has a cause and an address outside memory (R53, R266). -/
  abortSet : s.abort = true → (s.abortKind = 1 ∨ s.abortKind = 2) ∧ inBounds s.abortAddr = false
  /-- A machine that is idle before its run is as the host prepared it (R232). -/
  idle : s.running = false → s.halted = false → s.abort = false →
    s.t = 0 ∧ s.pc = 0 ∧ s.F = Context.bubble ∧ s.D = Context.bubble ∧ s.E = Context.bubble ∧ s.M = Context.bubble ∧
      s.W = Context.bubble
  /-- pc[31:28] is 0 (R187). -/
  pcHigh : s.pc.toNat < 2 ^ 28
  /-- Own pcs are 1 to 2048 (R38, R44). -/
  ownPc : s.F.ownPcOk ∧ s.D.ownPcOk ∧ s.E.ownPcOk ∧ s.M.ownPcOk ∧ s.W.ownPcOk
  /-- Live contexts past Decode hold the fields of their words (R220); D's only if no abort cut the advance short (R266). -/
  decoded : (s.abort = false → s.D.decoded) ∧ s.E.decoded ∧ s.M.decoded ∧ s.W.decoded
  /-- No slot is filled before the tick at which the first instruction reaches it (R224). -/
  fill : (s.F.valid = true → 1 ≤ s.t) ∧ (s.D.valid = true → 2 ≤ s.t) ∧ (s.E.valid = true → 4 ≤ s.t) ∧
    (s.M.valid = true → 5 ≤ s.t) ∧ (s.W.valid = true → 6 ≤ s.t)

/-- Nothing is in flight and the next tick is a fetch tick: the start of an instruction's timetable (R224, R232). -/
structure State.ReadyToFetch (s : State) : Prop where
  running : s.running = true
  notAborted : s.abort = false
  evenTick : s.evenTick = true
  turn : s.turn = .rest
  slotD : s.D.live = false
  slotE : s.E.live = false
  slotM : s.M.live = false
  /-- N is at most 2048 (R51). -/
  count : s.n.toNat ≤ Config.maxCount
  /-- The word at pc is part of the program (R222). -/
  inProgram : s.pc.toNat < s.n.toNat

/-- The instruction whose word stands at an address. -/
def State.instrAt (s : State) (a : Nat) : Instr := decode (Memory.read s.mem a)

/-- Equal, or neither of them live: what a dead context holds is left out (R46, R228). -/
def Context.SameIfLive (c c' : Context) : Prop := c = c' ∨ (c.live = false ∧ c'.live = false)

/-- Equal but for what dead contexts hold (R46, R228). -/
structure State.SameUpToDead (s s' : State) : Prop where
  regs : s.regs = s'.regs
  pc : s.pc = s'.pc
  mem : s.mem = s'.mem
  slotF : s.F.SameIfLive s'.F
  slotD : s.D.SameIfLive s'.D
  slotE : s.E.SameIfLive s'.E
  slotM : s.M.SameIfLive s'.M
  slotW : s.W.SameIfLive s'.W
  t : s.t = s'.t
  n : s.n = s'.n
  running : s.running = s'.running
  halted : s.halted = s'.halted
  abort : s.abort = s'.abort
  abortKind : s.abortKind = s'.abortKind
  abortAddr : s.abortAddr = s'.abortAddr
  abortPc : s.abortPc = s'.abortPc
  turn : s.turn = s'.turn

/-- A run of `k` clock edges with no port asserted. -/
def runTicks (k : Nat) (s : State) : Host.Outcome State Fault Refusal := Host.Core.run Sys2Proof.core k s

/-- The run of a state never stops with a fault, however long it is. -/
def State.NeverFaults (s : State) : Prop := ∀ k r, runTicks k s ≠ .fault r

end Sys2Proof.Machine
end

