-- ==== Sys2Proof/Certificates/Slice0/Obligations.lean ====
section
/-! DEFINITION. The statements for the provers. "decision D<n>" is the spec's own choice of 92_eei_decisions.md. -/

open Sys2Proof Sys2Proof.Machine

/-! ### The codec (file 30) -/

/-- Words written out bit by bit from the layouts of R103 to R106 decode to their instructions. -/
def Obligations.SampleWordsDecode : Prop :=
  decode 0b0000_00001_00010_00011_0000000000000#32 = .add 1 2 3 ∧
  decode 0b0001_00100_00101_00110_0000000000000#32 = .sub 4 5 6 ∧
  decode 0b0010_00111_01000_01001_0000000000000#32 = .mul 7 8 9 ∧
  decode 0b0011_00001_00000_111111111111111111#32 = .movi 1 (-1) ∧
  decode 0b0100_00001_00010_000000000000000010#32 = .jeq 1 2 2 ∧
  decode 0b0101_01010_01011_01100_0000000000000#32 = .and 10 11 12 ∧
  decode 0b0110_00011_00100_000000000011111111#32 = .xori 3 4 255 ∧
  decode 0b0111_0000000000000000000000001000#32 = .jmp 8 ∧
  decode 0b1000_00001_00010_00000_0000000000100#32 = .lsl 1 2 4 ∧
  decode 0b1001_00101_00110_00000_0000000011111#32 = .lsr 5 6 31 ∧
  decode 0b1010_00011_00001_111111111111111100#32 = .movr 3 1 (-4) ∧
  decode 0b1011_00010_00001_000000000001100100#32 = .movm 2 1 100 ∧
  decode 0b1111_1111111111111111111111111111#32 = .undef 15 0xFFFFFFF

/-- Decoding the word of a well-formed instruction gives the instruction back, every operand included. -/
def Obligations.DecodeOfEncodeIsTheInstruction : Prop :=
  ∀ i : Instr, i.wf = true → decode (encode i) = i

/-- Every word decodes, to a well-formed instruction with the word's opcode; UNDEF is exactly bits 31:30 = 11. -/
def Obligations.EveryWordDecodesToItsOpcode : Prop :=
  ∀ w : Word, (decode w).wf = true ∧ (decode w).opcode = BitVec.extractLsb' 28 4 w ∧
    ((∃ op rest, decode w = .undef op rest) ↔ BitVec.extractLsb' 30 2 w = 3#2)

/-- What decoding and encoding again keeps: every bit but those the opcode ignores, which come back 0 (decision D17). For MOVI
this is the model's `encode`, which passes 0 for field B (log 15), and for opcodes 12 to 15 the model's choice to give UNDEF
its own bits past the encoder block, which refuses those opcodes (R200, D17; log 13). -/
def Obligations.ReencodingClearsOnlyIgnoredBits : Prop :=
  ∀ w : Word,
    ((fieldOp w ∈ [0#4, 1#4, 2#4, 5#4]) → encode (decode w) = w &&& 0xFFFFE000#32) ∧
    (fieldOp w = 3#4 → encode (decode w) = w &&& 0xFF83FFFF#32) ∧
    ((fieldOp w ∈ [8#4, 9#4]) → encode (decode w) = w &&& 0xFFFC1FFF#32) ∧
    ((fieldOp w ∈ [4#4, 6#4, 7#4, 10#4, 11#4, 12#4, 13#4, 14#4, 15#4]) → encode (decode w) = w)

/-- A word decodes as the same word with its ignored bits 0 (decision D17). -/
def Obligations.IgnoredBitsDoNotSelect : Prop :=
  ∀ w : Word,
    ((fieldOp w ∈ [0#4, 1#4, 2#4, 5#4]) → decode (w &&& 0xFFFFE000#32) = decode w) ∧
    (fieldOp w = 3#4 → decode (w &&& 0xFF83FFFF#32) = decode w) ∧
    ((fieldOp w ∈ [8#4, 9#4]) → decode (w &&& 0xFFFC1FFF#32) = decode w)

/-- The sign extension of the 18-bit immediate (R108), with its three patterns. -/
def Obligations.ImmediateIsSignExtended : Prop :=
  (∀ w : Word, fieldImm w = sext18 (w.extractLsb' 0 18)) ∧
  (∀ v : BitVec 18, (sext18 v).toInt = if v.getLsbD 17 then (v.toNat : Int) - 262144 else (v.toNat : Int)) ∧
  sext18 0x3FFFF#18 = 0xFFFFFFFF#32 ∧ sext18 0x20000#18 = 0xFFFE0000#32 ∧ sext18 0x1FFFF#18 = 0x0001FFFF#32

/-- The range check of the encoder (R111), for a request with the class of its opcode: an error exactly when an operand that the
class uses does not fit its field, and then the word is 0. -/
def Obligations.EncoderChecksRanges : Prop :=
  ∀ r : EncodeRequest, classOf r.op = some (classOfCode r.cls) →
    ((encoder r).err = true ↔
      (r.cls ≠ 2 ∧ (32 ≤ r.a.toNat ∨ 32 ≤ r.b.toNat)) ∨
      (r.cls = 0 ∧ 32 ≤ r.c.toNat) ∨
      (r.cls = 1 ∧ (r.imm.toInt < -131072 ∨ 131071 < r.imm.toInt)) ∨
      (r.cls = 3 ∧ 8192 ≤ r.shamt.toNat) ∨
      (r.cls = 2 ∧ 268435456 ≤ r.addr.toNat)) ∧
    ((encoder r).err = true → (encoder r).word = 0)

/-- A request whose class is not its opcode's, or whose opcode has none, is an error with word 0 (decision D17). -/
def Obligations.EncoderRefusesAWrongClass : Prop :=
  ∀ r : EncodeRequest, classOf r.op ≠ some (classOfCode r.cls) → encoder r = { word := 0, err := true }

/-- Decoding the word of an accepted request gives back every operand its class uses. -/
def Obligations.AcceptedRequestDecodesToItsOperands : Prop :=
  ∀ r : EncodeRequest, (encoder r).err = false →
    let f := decodeFields (encoder r).word
    f.op = r.op ∧
    (r.cls ≠ 2 → f.rA.toNat = r.a.toNat ∧ f.rB.toNat = r.b.toNat) ∧
    (r.cls = 0 → f.rC.toNat = r.c.toNat) ∧
    (r.cls = 1 → f.imm = r.imm) ∧
    (r.cls = 3 → f.shamt.toNat = r.shamt.toNat) ∧
    (r.cls = 2 → f.addr.toNat = r.addr.toNat)

/-! ### The four turns of each instruction (files 40 to 44) -/

/-- Outside every turn no instruction does anything (the model's convention, log 11). -/
def Obligations.NoTurnNoEffect : Prop :=
  ∀ (i : Instr) (s : State), s.turn = .rest → exec i s = .next s

/-- The Decode turn is the same for every opcode: all fields from the word, both operands read from the indices in fields B
and C, nothing outside D (R34, R220). -/
def Obligations.DecodeTurnIsUniform : Prop :=
  ∀ s : State, s.turn = .decode →
    exec (decode s.D.word) s = .next
      { s with
        D := { s.D with
          dec := decodeFields s.D.word
          valB := s.readReg (fieldB s.D.word)
          valC := s.readReg (fieldC s.D.word) } }

/-- ADD, SUB, MUL and AND complete in each of their turns (wrap-around: decision D2). -/
def Obligations.AddSubMulAndTurns : Prop :=
  ∀ (s : State) (ra rb rc : RegIdx),
    let decoded : State :=
      { s with D := { s.D with dec := decodeFields s.D.word, valB := s.readReg rb, valC := s.readReg rc } }
    let computed (v : Word) : State := { s with E := { s.E with result := v } }
    let written : State := { s with regs := (s.regs.set ra.toNat s.W.result ra.isLt).set 0 0 }
    (s.turn = .decode →
      exec (.add ra rb rc) s = .next decoded ∧ exec (.sub ra rb rc) s = .next decoded ∧
      exec (.mul ra rb rc) s = .next decoded ∧ exec (.and ra rb rc) s = .next decoded) ∧
    (s.turn = .execute →
      exec (.add ra rb rc) s = .next (computed (BitVec.ofNat 32 (s.E.valB.toNat + s.E.valC.toNat))) ∧
      exec (.sub ra rb rc) s = .next (computed (BitVec.ofInt 32 ((s.E.valB.toNat : Int) - s.E.valC.toNat))) ∧
      exec (.mul ra rb rc) s = .next (computed (BitVec.ofNat 32 (s.E.valB.toNat * s.E.valC.toNat))) ∧
      exec (.and ra rb rc) s = .next (computed (s.E.valB &&& s.E.valC))) ∧
    (s.turn = .memory →
      exec (.add ra rb rc) s = .next s ∧ exec (.sub ra rb rc) s = .next s ∧
      exec (.mul ra rb rc) s = .next s ∧ exec (.and ra rb rc) s = .next s) ∧
    (s.turn = .writeback →
      exec (.add ra rb rc) s = .next written ∧ exec (.sub ra rb rc) s = .next written ∧
      exec (.mul ra rb rc) s = .next written ∧ exec (.and ra rb rc) s = .next written)

/-- XORI and MOVI complete in each of their turns. -/
def Obligations.XoriMoviTurns : Prop :=
  ∀ (s : State) (ra rb : RegIdx) (imm : Word),
    let decoded (b : RegIdx) : State :=
      { s with D := { s.D with
          dec := decodeFields s.D.word, valB := s.readReg b, valC := s.readReg (fieldC s.D.word) } }
    let computed (v : Word) : State := { s with E := { s.E with result := v } }
    let written : State := { s with regs := (s.regs.set ra.toNat s.W.result ra.isLt).set 0 0 }
    (s.turn = .decode →
      exec (.xori ra rb imm) s = .next (decoded rb) ∧ exec (.movi ra imm) s = .next (decoded (fieldB s.D.word))) ∧
    (s.turn = .execute →
      exec (.xori ra rb imm) s = .next (computed (s.E.valB ^^^ imm)) ∧ exec (.movi ra imm) s = .next (computed imm)) ∧
    (s.turn = .memory → exec (.xori ra rb imm) s = .next s ∧ exec (.movi ra imm) s = .next s) ∧
    (s.turn = .writeback → exec (.xori ra rb imm) s = .next written ∧ exec (.movi ra imm) s = .next written)

/-- LSL and LSR complete in each of their turns; amounts of 32 and more give 0 (decision D3). -/
def Obligations.LslLsrTurns : Prop :=
  ∀ (s : State) (ra rb : RegIdx) (n : Shamt),
    let decoded : State :=
      { s with D := { s.D with
          dec := decodeFields s.D.word, valB := s.readReg rb, valC := s.readReg (fieldC s.D.word) } }
    let computed (v : Word) : State := { s with E := { s.E with result := v } }
    let written : State := { s with regs := (s.regs.set ra.toNat s.W.result ra.isLt).set 0 0 }
    (s.turn = .decode → exec (.lsl ra rb n) s = .next decoded ∧ exec (.lsr ra rb n) s = .next decoded) ∧
    (s.turn = .execute → n.toNat < 32 →
      exec (.lsl ra rb n) s = .next (computed (BitVec.ofNat 32 (s.E.valB.toNat * 2 ^ n.toNat))) ∧
      exec (.lsr ra rb n) s = .next (computed (BitVec.ofNat 32 (s.E.valB.toNat / 2 ^ n.toNat)))) ∧
    (s.turn = .execute → 32 ≤ n.toNat →
      exec (.lsl ra rb n) s = .next (computed 0) ∧ exec (.lsr ra rb n) s = .next (computed 0)) ∧
    (s.turn = .memory → exec (.lsl ra rb n) s = .next s ∧ exec (.lsr ra rb n) s = .next s) ∧
    (s.turn = .writeback → exec (.lsl ra rb n) s = .next written ∧ exec (.lsr ra rb n) s = .next written)

/-- MOVR completes in each of its turns when its address is inside memory. -/
def Obligations.MovrTurns : Prop :=
  ∀ (s : State) (ra rb : RegIdx) (imm : Word),
    (s.turn = .decode → exec (.movr ra rb imm) s = .next
      { s with D := { s.D with
          dec := decodeFields s.D.word, valB := s.readReg rb, valC := s.readReg (fieldC s.D.word) } }) ∧
    (s.turn = .execute → exec (.movr ra rb imm) s = .next { s with E := { s.E with ea := s.E.valB + imm } }) ∧
    (s.turn = .memory → s.M.ea.toNat < 2048 →
      exec (.movr ra rb imm) s = .next { s with M := { s.M with result := Memory.read s.mem s.M.ea.toNat } }) ∧
    (s.turn = .writeback → exec (.movr ra rb imm) s = .next
      { s with regs := (s.regs.set ra.toNat s.W.result ra.isLt).set 0 0 })

/-- MOVM completes in each of its turns when its address is inside memory: the register is read at the Memory turn (decision
D10), the one word at the address computed is stored, every other word reads as before, and no register changes. -/
def Obligations.MovmTurns : Prop :=
  ∀ (s : State) (ra rb : RegIdx) (imm : Word),
    (s.turn = .decode → exec (.movm ra rb imm) s = .next
      { s with D := { s.D with
          dec := decodeFields s.D.word, valB := s.readReg rb, valC := s.readReg (fieldC s.D.word) } }) ∧
    (s.turn = .execute → exec (.movm ra rb imm) s = .next { s with E := { s.E with ea := s.E.valB + imm } }) ∧
    (s.turn = .memory → s.M.ea.toNat < 2048 → Memory.wf s.mem = true →
      ∃ m : Memory, exec (.movm ra rb imm) s = .next { s with mem := m } ∧
        Memory.wf m = true ∧
        Memory.read m s.M.ea.toNat = s.readReg ra ∧
        ∀ a, a ≠ s.M.ea.toNat → Memory.read m a = Memory.read s.mem a) ∧
    (s.turn = .writeback → exec (.movm ra rb imm) s = .next s)

/-- An out-of-bounds address at the Memory turn of MOVR or MOVM is the abort: cause, address and own pc recorded, the run
stopped, nothing else changed (decision D15). -/
def Obligations.OutOfBoundsMemoryTurnAborts : Prop :=
  ∀ (s : State) (ra rb : RegIdx) (imm : Word), s.turn = .memory → 2048 ≤ s.M.ea.toNat →
    exec (.movr ra rb imm) s = .next
      { s with abort := true, abortKind := 1, abortAddr := s.M.ea, abortPc := s.M.pc, running := false } ∧
    exec (.movm ra rb imm) s = .next
      { s with abort := true, abortKind := 2, abortAddr := s.M.ea, abortPc := s.M.pc, running := false }

/-- JEQ completes in each of its turns; its Execute turn, case by case (own pc and register reads: decisions D9, D10; offsets
below 1: decision D11). -/
def Obligations.JeqTurns : Prop :=
  ∀ (s : State) (ra rb : RegIdx) (imm : Word),
    (s.turn = .decode → exec (.jeq ra rb imm) s = .next
      { s with D := { s.D with
          dec := decodeFields s.D.word, valB := s.readReg rb, valC := s.readReg (fieldC s.D.word) } }) ∧
    (s.turn = .execute → s.readReg ra ≠ s.readReg rb → exec (.jeq ra rb imm) s = .next s) ∧
    (s.turn = .execute → s.readReg ra = s.readReg rb → imm.toInt = 1 →
      exec (.jeq ra rb imm) s = .next { s with D := { s.D with flush := true } }) ∧
    (s.turn = .execute → s.readReg ra = s.readReg rb → 1 < imm.toInt →
      exec (.jeq ra rb imm) s = .next
        { s with F := { s.F with flush := true }, D := { s.D with flush := true }, pc := s.E.pc + imm }) ∧
    (s.turn = .execute → s.readReg ra = s.readReg rb → imm.toInt ≤ 0 → exec (.jeq ra rb imm) s = .next s) ∧
    (s.turn = .memory → exec (.jeq ra rb imm) s = .next s) ∧
    (s.turn = .writeback → exec (.jeq ra rb imm) s = .next s)

/-- JMP completes in each of its turns; its Execute turn, case by case on the target that keeps bits 31:28 of pc (decision D12). -/
def Obligations.JmpTurns : Prop :=
  ∀ (s : State) (addr : Addr),
    let target : Word := BitVec.ofNat 32 (s.pc.toNat / 2 ^ 28 * 2 ^ 28 + addr.toNat)
    (s.turn = .decode → exec (.jmp addr) s = .next
      { s with D := { s.D with
          dec := decodeFields s.D.word
          valB := s.readReg (fieldB s.D.word)
          valC := s.readReg (fieldC s.D.word) } }) ∧
    (s.turn = .execute → target = s.E.pc + 1 →
      exec (.jmp addr) s = .next { s with D := { s.D with flush := true } }) ∧
    (s.turn = .execute → target = s.E.pc → exec (.jmp addr) s = .next s) ∧
    (s.turn = .execute → target ≠ s.E.pc + 1 → target ≠ s.E.pc →
      exec (.jmp addr) s = .next
        { s with F := { s.F with flush := true }, D := { s.D with flush := true }, pc := target }) ∧
    (s.turn = .memory → exec (.jmp addr) s = .next s) ∧
    (s.turn = .writeback → exec (.jmp addr) s = .next s)

/-- Opcodes 12 to 15 complete in each of their turns and never abort, whatever the address they compute (decision D16). -/
def Obligations.UndefTurns : Prop :=
  ∀ (s : State) (op : Opcode) (rest : Addr),
    (s.turn = .decode → exec (.undef op rest) s = .next
      { s with D := { s.D with
          dec := decodeFields s.D.word
          valB := s.readReg (fieldB s.D.word)
          valC := s.readReg (fieldC s.D.word) } }) ∧
    (s.turn = .execute → exec (.undef op rest) s = .next
      { s with E := { s.E with ea := s.E.valB + sext18 (rest.extractLsb' 0 18) } }) ∧
    (s.turn = .memory → exec (.undef op rest) s = .next s) ∧
    (s.turn = .writeback → exec (.undef op rest) s = .next s)

/-! ### Registers, reset and the ports (files 10 and 70) -/

/-- Register 0 reads 0 in every state, through the stages' port and the host's, and holds 0 after any write (R31). -/
def Obligations.RegisterZeroReadsZero : Prop :=
  (∀ s : State, s.readReg 0 = 0 ∧ s.debugReg 0 = 0) ∧
  (∀ (s : State) (i : RegIdx) (v : Word),
    (s.writeReg i v).regs[0] = 0 ∧ (s.writeReg i v).readReg 0 = 0 ∧ (s.writeReg i v).debugReg 0 = 0)

/-- A register write is the pair `regs[i] <- v`, `regs[0] <- 0`, and touches nothing else: afterwards register 0 holds 0, any
other written register its value and every other register what it held (R32). -/
def Obligations.RegisterWriteIsThePair : Prop :=
  ∀ (s : State) (i : RegIdx) (v : Word),
    s.writeReg i v = { s with regs := (s.regs.set i.toNat v i.isLt).set 0 0 } ∧
    (s.writeReg i v).regs[0] = 0 ∧ (i ≠ 0 → (s.writeReg i v).readReg i = v) ∧
    (∀ j, j ≠ i → (s.writeReg i v).readReg j = s.readReg j)

/-- The machine after reset (R60: decision D18): everything 0, five bubbles, idle. -/
def Obligations.ResetState : Prop :=
  (∀ i, State.reset.readReg i = 0) ∧ (∀ a, Memory.read State.reset.mem a = 0) ∧
  State.reset.pc = 0 ∧ State.reset.n = 0 ∧ State.reset.t = 0 ∧
  State.reset.F = Context.bubble ∧ State.reset.D = Context.bubble ∧ State.reset.E = Context.bubble ∧
  State.reset.M = Context.bubble ∧ State.reset.W = Context.bubble ∧
  State.reset.running = false ∧ State.reset.halted = false ∧ State.reset.abort = false ∧
  State.reset.abortKind = 0 ∧ State.reset.abortAddr = 0 ∧ State.reset.abortPc = 0

/-- `rst` at a clock edge gives the reset state, whatever else is asserted (R55). -/
def Obligations.ResetPortWins : Prop :=
  ∀ (p : Inputs) (s : State), p.rst = true → clockEdge p s = .next State.reset

/-- While the core runs, the load, seed, count and start ports change nothing: the edge is the advance alone (decision D19). -/
def Obligations.PortsIgnoredWhileRunning : Prop :=
  ∀ (p : Inputs) (s : State), p.rst = false → s.running = true → clockEdge p s = step s

/-- Each load port alone, on a core that is not running: one word, one register with the pair of writes, the count unless above
2048, and start (decisions D19, D20, D25). That the three writes also act after a halt or an abort is the model's reading of
R56 against R231 (log 8). -/
def Obligations.LoadPortsOneAtATime : Prop :=
  ∀ s : State, s.running = false →
    (∀ (a : BitVec 11) (v : Word),
      clockEdge { Inputs.none with ldWe := true, ldAddr := a, ldData := v } s =
        .next { s with mem := Memory.write s.mem a.toNat v }) ∧
    (∀ (i : RegIdx) (v : Word),
      clockEdge { Inputs.none with seedWe := true, seedIdx := i, seedData := v } s = .next (s.writeReg i v)) ∧
    (∀ v : BitVec 12, v.toNat ≤ 2048 →
      clockEdge { Inputs.none with nWe := true, nData := v } s = .next { s with n := v }) ∧
    (∀ v : BitVec 12, 2048 < v.toNat → clockEdge { Inputs.none with nWe := true, nData := v } s = .next s) ∧
    (s.halted = true ∨ s.abort = true → clockEdge { Inputs.none with start := true } s = .next s) ∧
    (s.halted = false → s.abort = false → s.Inv → s.n ≠ 0 →
      clockEdge { Inputs.none with start := true } s = .next { s with running := true }) ∧
    (s.halted = false → s.abort = false → s.Inv → s.n = 0 →
      clockEdge { Inputs.none with start := true } s = .next { s with halted := true })

/-- Starting an idle machine with a program of one word or more makes it ready to fetch at address 0 with t = 0. -/
def Obligations.StartedMachineIsReadyToFetch : Prop :=
  ∀ s : State, s.Inv → s.running = false → s.halted = false → s.abort = false → s.n ≠ 0 →
    ∃ s', clockEdge { Inputs.none with start := true } s = .next s' ∧ s'.ReadyToFetch ∧ s'.pc = 0 ∧ s'.t = 0 ∧
      s'.mem = s.mem ∧ s'.regs = s.regs

/-! ### One step -/

/-- While `running` is 0 no advance happens: nothing changes (R284). -/
def Obligations.NoAdvanceWhileNotRunning : Prop :=
  ∀ s : State, s.running = false → step s = .next s

/-- After a halt or an abort the state stays as it is, through any number of edges that assert nothing and through an edge that
asserts start alone. (The load, seed and count ports still write: log 8.) -/
def Obligations.EndedRunStaysEnded : Prop :=
  ∀ (s : State) (k : Nat), s.Inv → s.halted = true ∨ s.abort = true →
    runTicks k s = .next s ∧ clockEdge { Inputs.none with start := true } s = .next s

/-- Every odd tick: after the tick and the copies the step is the Write-back turn of the instruction arriving in W, if the tick is
7 or later and its context is live, then Fetch and the halt test (decisions D4 to D6). -/
def Obligations.StepRunsWritebackTurn : Prop :=
  ∀ (s : State) (i : Instr), s.running = true → s.abort = false → s.t % 2 = 0 → s.M.dec.instr = i →
    step s =
      andThen
        (if 6 ≤ s.t ∧ s.M.live = true then
          andThen (exec i (s.beginTick.setTurn .writeback)) fun s' => .next (s'.setTurn .rest)
        else .next s.beginTick)
        fun s₁ => andThen s₁.fetchPhase fun s₂ => .next s₂.haltTest

/-- Every even tick, with E, D and F live or not (fill, full pipeline, drain, after a taken transfer): after the tick and the
copies the step is the Memory turn of the instruction arriving in M, if the tick is 6 or later and its context is live; then,
unless it aborted, the Execute turn of the one arriving in E, if live; then the Decode turn of the word arriving in D, if still
live after Execute's marks; then the halt test (decisions D4 to D6). -/
def Obligations.StepRunsMemoryExecuteDecodeTurns : Prop :=
  ∀ (s : State) (im ix id : Instr), s.running = true → s.abort = false → s.t % 2 = 1 →
    s.E.dec.instr = im → s.D.dec.instr = ix → decode s.F.word = id →
    step s =
      andThen
        (if 5 ≤ s.t ∧ s.E.live = true then
          andThen (exec im (s.beginTick.setTurn .memory)) fun s' => .next (s'.setTurn .rest)
        else .next s.beginTick)
        fun s₁ =>
          if s₁.abort then .next s₁
          else
            andThen
              (if s.D.live = true then andThen (exec ix (s₁.setTurn .execute)) fun s' => .next (s'.setTurn .rest)
              else .next s₁)
              fun s₂ =>
                andThen
                  (if s₂.D.live = true then andThen (exec id (s₂.setTurn .decode)) fun s' => .next (s'.setTurn .rest)
                  else .next s₂)
                  fun s₃ => .next s₃.haltTest

/-- From a machine ready to fetch, the first step puts the word at pc into F and the second is the Decode turn of the
instruction that word decodes to (decisions D4, D5, D26). -/
def Obligations.StepFetchesThenDecodes : Prop :=
  ∀ (s : State) (i : Instr), s.ReadyToFetch → s.instrAt s.pc.toNat = i →
    ∃ s₁, step s = .next s₁ ∧ s₁.F.live = true ∧ s₁.F.word = Memory.read s.mem s.pc.toNat ∧ s₁.F.pc = s.pc + 1 ∧
      s₁.pc = s.pc + 1 ∧ s₁.t = s.t + 1 ∧ s₁.regs = s.regs ∧ s₁.mem = s.mem ∧
      step s₁ = andThen (exec i (s₁.beginTick.setTurn .decode)) fun s₂ => .next (s₂.setTurn .rest).haltTest

/-- One advance adds one to the tick count, leaves N alone and ends with no stage in its turn unless it began in one. -/
def Obligations.AdvanceCountsOneTick : Prop :=
  ∀ s s' : State, s.running = true → step s = .next s' → s'.t = s.t + 1 ∧ s'.n = s.n ∧ (s.turn = .rest → s'.turn = .rest)

/-- The copies of an advance: W and M take the contexts of M and E on every tick, up to what the Memory turn adds to the
arriving context; on odd ticks E and D keep their contexts; on even ticks E takes D's word and D takes F's (R214). -/
def Obligations.ContextsMoveByOneSlot : Prop :=
  ∀ s s' : State, s.running = true → step s = .next s' →
    s'.W = s.M ∧ (∃ r, s'.M = { s.E with result := r }) ∧
    (s.t % 2 = 0 → s'.M = s.E ∧ s'.E = s.E ∧ s'.D = s.D) ∧
    (s.t % 2 = 1 → s'.E.valid = s.D.valid ∧ s'.E.flush = s.D.flush ∧ s'.E.word = s.D.word ∧ s'.E.pc = s.D.pc ∧
      s'.E.dec = s.D.dec ∧ s'.E.valB = s.D.valB ∧ s'.E.valC = s.D.valC ∧
      s'.D.valid = s.F.valid ∧ s'.D.word = s.F.word ∧ s'.D.pc = s.F.pc ∧
      (s'.D.flush = s.F.flush ∨ s'.D.flush = true))

/-- A register changes only by the Write-back turn, on an odd tick from 7, of a live context of the write-back set, which writes
its result to its field A (R33, R121). -/
def Obligations.RegistersChangeOnlyAtWriteback : Prop :=
  ∀ s s' : State, step s = .next s' →
    s'.regs = s.regs ∨
    (s.running = true ∧ s'.t % 2 = 1 ∧ 7 ≤ s'.t ∧ s.M.live = true ∧
      s.M.dec.op ∈ [0#4, 1#4, 2#4, 3#4, 5#4, 6#4, 8#4, 9#4, 10#4] ∧
      s'.regs = (s.writeReg s.M.dec.rA s.M.result).regs)

/-- Memory changes only by the Memory turn, on an even tick from 6, of a live MOVM inside memory, which stores the register its
field A names at its effective address; every other word reads as before. -/
def Obligations.MemoryChangesOnlyByStore : Prop :=
  ∀ s s' : State, Memory.wf s.mem = true → step s = .next s' →
    s'.mem = s.mem ∨
    (s.running = true ∧ s'.t % 2 = 0 ∧ 6 ≤ s'.t ∧ s.E.live = true ∧ s.E.dec.op = 11#4 ∧ s.E.ea.toNat < 2048 ∧
      Memory.read s'.mem s.E.ea.toNat = s.readReg s.E.dec.rA ∧
      ∀ a, a ≠ s.E.ea.toNat → Memory.read s'.mem a = Memory.read s.mem a)

/-- pc changes only by Fetch, which adds one, and by the Execute turn of a live JEQ or JMP that redirects it (R37). -/
def Obligations.PcChangesOnlyByFetchOrRedirect : Prop :=
  ∀ s s' : State, step s = .next s' →
    s'.pc = s.pc ∨
    (s.running = true ∧ s'.t % 2 = 1 ∧ s.pc.toNat < s.n.toNat ∧ s'.pc = s.pc + 1) ∨
    (s.running = true ∧ s'.t % 2 = 0 ∧ s.D.live = true ∧ s.D.dec.op = 4#4 ∧
      s.readReg s.D.dec.rA = s.readReg s.D.dec.rB ∧ 1 < s.D.dec.imm.toInt ∧ s'.pc = s.D.pc + s.D.dec.imm) ∨
    (s.running = true ∧ s'.t % 2 = 0 ∧ s.D.live = true ∧ s.D.dec.op = 7#4 ∧
      s'.pc = s.jumpTarget s.D.dec.addr ∧ s'.pc ≠ s.D.pc + 1 ∧ s'.pc ≠ s.D.pc)

/-- The advance aborts, and the run stops, exactly when a live MOVR or MOVM has its Memory turn with an address of 2048 or more:
no other instruction and no other stage can cause it (R262, R266, which rest on decision D15; the even tick from 6: R213,
decision D6). -/
def Obligations.OnlyOutOfBoundsAccessAborts : Prop :=
  ∀ s s' : State, s.abort = false → step s = .next s' →
    (s'.abort = true ↔
      s.running = true ∧ s'.t % 2 = 0 ∧ 6 ≤ s'.t ∧ s.E.live = true ∧ (s.E.dec.op = 10#4 ∨ s.E.dec.op = 11#4) ∧
        2048 ≤ s.E.ea.toNat) ∧
    (s'.abort = true → s'.running = false)

/-- The state an abort leaves, whole: the tick counted and the copies made, the cause recorded, the run stopped, and nothing
else of the advance done (decision D15). -/
def Obligations.AbortLeavesTheRestUndone : Prop :=
  ∀ s s' : State, s.abort = false → s.turn = .rest → step s = .next s' → s'.abort = true →
    s' = { s with
      t := s.t + 1
      W := s.M, M := s.E, E := s.D, D := s.F
      running := false
      abort := true
      abortKind := if s.E.dec.op = 10#4 then 1 else 2
      abortAddr := s.E.ea
      abortPc := s.E.pc }

/-- A run ends normally only by an advance that leaves pc at N or beyond and no live context in F, D, E or M, and then it does
end (decision D14). -/
def Obligations.HaltsExactlyWhenDrained : Prop :=
  ∀ s s' : State, s.Inv → s.running = true → step s = .next s' → s'.abort = false →
    (s'.halted = true ↔
      s'.n.toNat ≤ s'.pc.toNat ∧ s'.F.live = false ∧ s'.D.live = false ∧ s'.E.live = false ∧ s'.M.live = false) ∧
    s'.running = !s'.halted

/-- The event strobes of the trace port say which stage acted on a live context in the advance just done (R58; how the model
computes them: log 10). -/
def Obligations.TraceStrobesTellWhoActed : Prop :=
  ∀ s s' : State, s.Inv → s.running = true → step s = .next s' →
    (s'.trace.evFetch = true ↔ s.t % 2 = 0 ∧ s.pc.toNat < s.n.toNat) ∧
    (s'.trace.evWriteback = true ↔ s.t % 2 = 0 ∧ 6 ≤ s.t ∧ s.M.live = true) ∧
    (s'.trace.evMemory = true ↔ s.t % 2 = 1 ∧ 5 ≤ s.t ∧ s.E.live = true) ∧
    (s'.trace.evExecute = true ↔ s.t % 2 = 1 ∧ s'.abort = false ∧ s.D.live = true) ∧
    (s'.trace.evDecode = true ↔ s.t % 2 = 1 ∧ s'.abort = false ∧ s.F.live = true ∧ s'.D.flush = false)

/-! ### Invariants -/

/-- Every step keeps the invariant. -/
def Obligations.StepKeepsInv : Prop :=
  ∀ s s' : State, s.Inv → step s = .next s' → s'.Inv

/-- The reset state has the invariant. -/
def Obligations.ResetHasInv : Prop := State.reset.Inv

/-- Every clock edge, whatever the host asserts, keeps the invariant. -/
def Obligations.ClockEdgeKeepsInv : Prop :=
  ∀ (p : Inputs) (s s' : State), s.Inv → clockEdge p s = .next s' → s'.Inv

/-- From a state with the invariant no run stops with a fault: no fetch ever leaves memory (R38). -/
def Obligations.InvNeverFaults : Prop :=
  ∀ s : State, s.Inv → s.NeverFaults

/-- No state's run stops with a refusal: every instruction has its meaning. -/
def Obligations.NoRunIsRefused : Prop :=
  ∀ (s : State) (k : Nat) (r : Refusal), runTicks k s ≠ .refused r

/-- What dead contexts hold is never observed: runs from states equal but for dead contexts stay so, tick by tick (R46, R228). -/
def Obligations.DeadContextsAreUnobservable : Prop :=
  ∀ (k : Nat) (s₁ s₂ t₁ : State), s₁.SameUpToDead s₂ → runTicks k s₁ = .next t₁ →
    ∃ t₂, runTicks k s₂ = .next t₂ ∧ t₁.SameUpToDead t₂

/-! ### Instructions in the pipeline (file 45 R224, file 70) -/

/-- The timetable: an instruction fetched from an empty pipeline stands in D after 2 ticks, in E after 4, in M after 5 and 6
and in W after 7, live throughout, if it makes no access outside memory. -/
def Obligations.InstructionKeepsItsTimetable : Prop :=
  ∀ s : State, s.ReadyToFetch →
    (∀ a, netAddress (s.instrAt s.pc.toNat) s = some a → inBounds a = true) →
    ∃ s₁ s₂ s₃ s₄ s₅ s₆ s₇ : State,
      runTicks 1 s = .next s₁ ∧ runTicks 2 s = .next s₂ ∧ runTicks 3 s = .next s₃ ∧ runTicks 4 s = .next s₄ ∧
      runTicks 5 s = .next s₅ ∧ runTicks 6 s = .next s₆ ∧ runTicks 7 s = .next s₇ ∧
      ∀ c ∈ [s₁.F, s₂.D, s₃.D, s₄.E, s₅.E, s₅.M, s₆.M, s₆.W, s₇.W],
        c.live = true ∧ c.word = Memory.read s.mem s.pc.toNat ∧ c.pc = s.pc + 1

/-- Seven ticks after it was ready to fetch an instruction, the registers and the memory are those of the instruction's net
effect: the tick-by-tick machine does what the one-at-a-time reading says (net effects: log 18). -/
def Obligations.SevenTicksAreTheNetEffect : Prop :=
  ∀ s : State, s.ReadyToFetch →
    (∀ a, netAddress (s.instrAt s.pc.toNat) s = some a → inBounds a = true) →
    ∃ s', runTicks 7 s = .next s' ∧ s'.abort = false ∧
      s'.regs = (netEffect (s.instrAt s.pc.toNat) s).regs ∧ s'.mem = (netEffect (s.instrAt s.pc.toNat) s).mem

/-- A load or store outside memory stops the run at its sixth tick, with registers and memory untouched, for good. -/
def Obligations.OutOfBoundsInstructionAbortsTheRun : Prop :=
  ∀ (s : State) (a : Word) (k : Nat), s.ReadyToFetch →
    netAddress (s.instrAt s.pc.toNat) s = some a → inBounds a = false →
    ∃ s', runTicks (6 + k) s = .next s' ∧ s'.t = s.t + 6 ∧ s'.running = false ∧ s'.abort = true ∧
      s'.halted = s.halted ∧ (s'.abortKind = if (s.instrAt s.pc.toNat).opcode = 10#4 then 1 else 2) ∧
      s'.abortAddr = a ∧ s'.abortPc = s.pc + 1 ∧ s'.regs = s.regs ∧ s'.mem = s.mem

/-- After a taken JEQ or JMP the instruction behind it is dead and the next one fetched is the target's; after one that is not
taken the next two addresses follow (net effects: log 18). -/
def Obligations.TransferGoesToItsTarget : Prop :=
  ∀ (s : State) (i : Instr), s.ReadyToFetch → s.instrAt s.pc.toNat = i → (i.opcode = 4#4 ∨ i.opcode = 7#4) →
    ∃ s', runTicks 5 s = .next s' ∧
      (netTaken i s s.pc = true → s'.D.live = false ∧
        (s'.F.live = true ↔ (netNext i s s.pc).toNat < s.n.toNat) ∧
        (s'.F.live = true →
          s'.F.pc = netNext i s s.pc + 1 ∧ s'.F.word = Memory.read s.mem (netNext i s s.pc).toNat)) ∧
      (netTaken i s s.pc = false → netNext i s s.pc = s.pc + 1 ∧
        (s'.D.live = true ↔ s.pc.toNat + 1 < s.n.toNat) ∧
        (s'.D.live = true → s'.D.pc = s.pc + 2 ∧ s'.D.word = Memory.read s.mem (s.pc.toNat + 1)) ∧
        (s'.F.live = true ↔ s.pc.toNat + 2 < s.n.toNat) ∧
        (s'.F.live = true → s'.F.pc = s.pc + 3 ∧ s'.F.word = Memory.read s.mem (s.pc.toNat + 2)))

/-- The instruction in the shadow of a taken transfer, whatever it is, is marked before its Decode turn (tick 4) and has no
effect (R228): at its Execute turn (tick 6) `pc` and F stay, what arrives in D is not marked and nothing is computed; its
context goes on to M unchanged (tick 8); and through the tick that would have been its Write-back (tick 9) registers and memory
stay as they were and nothing aborts (net effects: log 18). -/
def Obligations.BranchShadowHasNoEffect : Prop :=
  ∀ s : State, s.ReadyToFetch → netTaken (s.instrAt s.pc.toNat) s s.pc = true →
    ∃ s₃ s₄ s₅ s₆ s₈ s₉ : State,
      runTicks 3 s = .next s₃ ∧ runTicks 4 s = .next s₄ ∧ runTicks 5 s = .next s₅ ∧ runTicks 6 s = .next s₆ ∧
      runTicks 8 s = .next s₈ ∧ runTicks 9 s = .next s₉ ∧
      s₄.D = { s₃.F with flush := true } ∧
      s₆.pc = s₅.pc ∧ s₆.F = s₅.F ∧ s₆.D.valid = s₅.F.valid ∧ s₆.D.flush = s₅.F.flush ∧ s₆.E = s₄.D ∧
      s₈.M = s₄.D ∧
      s₉.regs = s.regs ∧ s₉.mem = s.mem ∧ s₉.abort = false

/-- Two instructions of the write-back set back to back, loads inside memory among them: the second reads the registers as they
were before the first wrote (R300, R303, R304; net effects: log 18). -/
def Obligations.NextInstructionReadsOldValue : Prop :=
  ∀ (s : State) (r₁ r₂ : RegIdx) (v₁ v₂ : Word), s.ReadyToFetch → s.pc.toNat + 1 < s.n.toNat →
    netWrite (s.instrAt s.pc.toNat) s = some (r₁, v₁) → netWrite (s.instrAt (s.pc.toNat + 1)) s = some (r₂, v₂) →
    ∃ s', runTicks 9 s = .next s' ∧ s'.regs = ((s.writeReg r₁ v₁).writeReg r₂ v₂).regs ∧ s'.mem = s.mem

/-- Four instructions of the write-back set in a row, loads inside memory among them: the second and the third read the registers
as they were before the first wrote, the fourth reads them as they are after it (R300, R303, R304; net effects: log 18). -/
def Obligations.FourthInstructionReadsFirstResult : Prop :=
  ∀ (s : State) (r₁ r₂ r₃ r₄ : RegIdx) (v₁ v₂ v₃ v₄ : Word), s.ReadyToFetch → s.pc.toNat + 3 < s.n.toNat →
    netWrite (s.instrAt s.pc.toNat) s = some (r₁, v₁) → netWrite (s.instrAt (s.pc.toNat + 1)) s = some (r₂, v₂) →
    netWrite (s.instrAt (s.pc.toNat + 2)) s = some (r₃, v₃) →
    netWrite (s.instrAt (s.pc.toNat + 3)) (s.writeReg r₁ v₁) = some (r₄, v₄) →
    ∃ s', runTicks 13 s = .next s' ∧ s'.mem = s.mem ∧
      s'.regs = ((((s.writeReg r₁ v₁).writeReg r₂ v₂).writeReg r₃ v₃).writeReg r₄ v₄).regs

/-- JEQ compares registers at its Execute turn: right behind an instruction that writes one, a load among them, it still sees the
old value, with one more instruction of the write-back set between them the new one (R301, R303). The mark it puts on slot D
shows the outcome (net effects: log 18). -/
def Obligations.CompareReadsAtExecute : Prop :=
  ∀ (s : State) (r : RegIdx) (v : Word) (ra rb : RegIdx) (imm : Word), s.ReadyToFetch →
    netWrite (s.instrAt s.pc.toNat) s = some (r, v) →
    (s.pc.toNat + 1 < s.n.toNat → s.instrAt (s.pc.toNat + 1) = .jeq ra rb imm →
      ∃ s', runTicks 6 s = .next s' ∧
        (s'.D.flush = true ↔ s.readReg ra = s.readReg rb ∧ 1 ≤ imm.toInt)) ∧
    (s.pc.toNat + 2 < s.n.toNat → (∃ p, netWrite (s.instrAt (s.pc.toNat + 1)) s = some p) →
      s.instrAt (s.pc.toNat + 2) = .jeq ra rb imm →
      ∃ s', runTicks 8 s = .next s' ∧
        (s'.D.flush = true ↔
          (s.writeReg r v).readReg ra = (s.writeReg r v).readReg rb ∧ 1 ≤ imm.toInt))

/-- A store's data register is never stale: a MOVM right behind an instruction that writes the register, a load among them,
stores the new value, at the address its base register gave before that write (R300, R302, R303; net effects: log 18). -/
def Obligations.StoreDataIsNeverStale : Prop :=
  ∀ (s : State) (r ra rb : RegIdx) (v imm : Word), s.ReadyToFetch → s.pc.toNat + 1 < s.n.toNat →
    netWrite (s.instrAt s.pc.toNat) s = some (r, v) → s.instrAt (s.pc.toNat + 1) = .movm ra rb imm →
    inBounds (s.readReg rb + imm) = true →
    ∃ s', runTicks 8 s = .next s' ∧ s'.regs = (s.writeReg r v).regs ∧
      s'.mem = Memory.write s.mem (s.readReg rb + imm).toNat ((s.writeReg r v).readReg ra)

/-- MOVM as the consumer at distance three: behind three instructions of the write-back set it takes its base from the registers
after the first write and its data from those after all three (R300, R302, R303; net effects: log 18). -/
def Obligations.FourthInstructionStoresWithFreshBase : Prop :=
  ∀ (s : State) (r₁ r₂ r₃ ra rb : RegIdx) (v₁ v₂ v₃ imm : Word), s.ReadyToFetch → s.pc.toNat + 3 < s.n.toNat →
    netWrite (s.instrAt s.pc.toNat) s = some (r₁, v₁) → netWrite (s.instrAt (s.pc.toNat + 1)) s = some (r₂, v₂) →
    netWrite (s.instrAt (s.pc.toNat + 2)) s = some (r₃, v₃) → s.instrAt (s.pc.toNat + 3) = .movm ra rb imm →
    inBounds ((s.writeReg r₁ v₁).readReg rb + imm) = true →
    ∃ s', runTicks 12 s = .next s' ∧
      s'.regs = (((s.writeReg r₁ v₁).writeReg r₂ v₂).writeReg r₃ v₃).regs ∧
      s'.mem = Memory.write s.mem ((s.writeReg r₁ v₁).readReg rb + imm).toNat
        ((((s.writeReg r₁ v₁).writeReg r₂ v₂).writeReg r₃ v₃).readReg ra)

/-- MOVM then MOVR with the same base and offset, back to back, leaves the destination equal to the source register. -/
def Obligations.StoreThenLoadReturnsTheSource : Prop :=
  ∀ (s : State) (src dst base : RegIdx) (imm : Word), s.ReadyToFetch → Memory.wf s.mem = true →
    s.pc.toNat + 1 < s.n.toNat →
    s.instrAt s.pc.toNat = .movm src base imm → s.instrAt (s.pc.toNat + 1) = .movr dst base imm →
    inBounds (s.readReg base + imm) = true →
    ∃ s', runTicks 9 s = .next s' ∧ (dst ≠ 0 → s'.readReg dst = s.readReg src) ∧
      (∀ r, r ≠ dst → s'.readReg r = s.readReg r) ∧
      s'.mem = Memory.write s.mem (s.readReg base + imm).toNat (s.readReg src)

/-- The last instruction of a program, when it is not a transfer and makes no access outside memory, halts the run seven
ticks after its fetch began, with pc = N. -/
def Obligations.LastInstructionHalts : Prop :=
  ∀ (s : State) (k : Nat), s.ReadyToFetch → s.halted = false → s.pc.toNat + 1 = s.n.toNat →
    (s.instrAt s.pc.toNat).opcode ≠ 4#4 → (s.instrAt s.pc.toNat).opcode ≠ 7#4 →
    (∀ a, netAddress (s.instrAt s.pc.toNat) s = some a → inBounds a = true) →
    ∃ s', runTicks (7 + k) s = .next s' ∧ s'.halted = true ∧ s'.running = false ∧ s'.t = s.t + 7 ∧
      s'.pc.toNat = s'.n.toNat ∧ s'.n = s.n
end

