-- ==== Sys2Proof/Laws/Decode.lean ====
section
/-! SUPPORT. The fields of a packed word, the words of accepted requests, and the range of the sign-extended immediate. -/

namespace Sys2Proof

/-! ### Fields of the four layouts -/

@[simp] theorem fieldOp_packR (op : Opcode) (a b c : RegIdx) : fieldOp (packR op a b c) = op := by
  simp only [fieldOp, packR]; ext i hi; simp; grind

@[simp] theorem fieldA_packR (op : Opcode) (a b c : RegIdx) : fieldA (packR op a b c) = a := by
  simp only [fieldA, packR]; ext i hi; simp; grind

@[simp] theorem fieldB_packR (op : Opcode) (a b c : RegIdx) : fieldB (packR op a b c) = b := by
  simp only [fieldB, packR]; ext i hi; simp; grind

@[simp] theorem fieldC_packR (op : Opcode) (a b c : RegIdx) : fieldC (packR op a b c) = c := by
  simp only [fieldC, packR]; ext i hi; simp; grind

@[simp] theorem fieldOp_packI (op : Opcode) (a b : RegIdx) (imm : BitVec 18) : fieldOp (packI op a b imm) = op := by
  simp only [fieldOp, packI]; ext i hi; simp; grind

@[simp] theorem fieldA_packI (op : Opcode) (a b : RegIdx) (imm : BitVec 18) : fieldA (packI op a b imm) = a := by
  simp only [fieldA, packI]; ext i hi; simp; grind

@[simp] theorem fieldB_packI (op : Opcode) (a b : RegIdx) (imm : BitVec 18) : fieldB (packI op a b imm) = b := by
  simp only [fieldB, packI]; ext i hi; simp; grind

@[simp] theorem fieldImm_packI (op : Opcode) (a b : RegIdx) (imm : BitVec 18) : fieldImm (packI op a b imm) = sext18 imm := by
  simp only [fieldImm, packI]; congr 1; ext i hi; simp; grind

@[simp] theorem fieldOp_packS (op : Opcode) (a b : RegIdx) (n : Shamt) : fieldOp (packS op a b n) = op := by
  simp only [fieldOp, packS]; ext i hi; simp; grind

@[simp] theorem fieldA_packS (op : Opcode) (a b : RegIdx) (n : Shamt) : fieldA (packS op a b n) = a := by
  simp only [fieldA, packS]; ext i hi; simp; grind

@[simp] theorem fieldB_packS (op : Opcode) (a b : RegIdx) (n : Shamt) : fieldB (packS op a b n) = b := by
  simp only [fieldB, packS]; ext i hi; simp; grind

@[simp] theorem fieldC_packS (op : Opcode) (a b : RegIdx) (n : Shamt) : fieldC (packS op a b n) = 0 := by
  simp only [fieldC, packS]; ext i hi; simp; grind

@[simp] theorem fieldShamt_packS (op : Opcode) (a b : RegIdx) (n : Shamt) : fieldShamt (packS op a b n) = n := by
  simp only [fieldShamt, packS]; ext i hi; simp; grind

@[simp] theorem fieldOp_packJ (op : Opcode) (addr : Addr) : fieldOp (packJ op addr) = op := by
  simp only [fieldOp, packJ]; ext i hi; simp; grind

@[simp] theorem fieldAddr_packJ (op : Opcode) (addr : Addr) : fieldAddr (packJ op addr) = addr := by
  simp only [fieldAddr, packJ]; ext i hi; simp; grind

/-! ### The immediate -/

/-- The decoder's immediates all fit the field. -/
theorem immFits_sext18 (v : BitVec 18) : immFits (sext18 v) = true := by
  have h : (sext18 v).toInt = v.toInt := BitVec.toInt_signExtend_of_le (by decide)
  have h1 := BitVec.le_toInt v
  have h2 := BitVec.toInt_lt (x := v)
  simp only [immFits, h, Bool.and_eq_true, decide_eq_true_eq]
  omega

/-- An immediate that fits is the sign extension of its low 18 bits. -/
theorem sext18_setWidth {imm : Word} (h : immFits imm = true) : sext18 (imm.setWidth 18) = imm := by
  simp only [immFits, Bool.and_eq_true, decide_eq_true_eq] at h
  apply BitVec.eq_of_toInt_eq
  have h1 : (sext18 (imm.setWidth 18)).toInt = (imm.setWidth 18).toInt := BitVec.toInt_signExtend_of_le (by decide)
  have h2 := BitVec.toInt_eq_toNat_cond imm
  have h3 := BitVec.toInt_eq_toNat_cond (imm.setWidth 18)
  rw [BitVec.toNat_setWidth] at h3
  have := imm.isLt
  rw [h1, h3]
  split at h2 <;> split <;> omega

/-! ### Accepted requests -/

@[simp] theorem classOfCode_r : classOfCode 0#2 = .r := rfl

@[simp] theorem classOfCode_i : classOfCode 1#2 = .i := rfl

@[simp] theorem classOfCode_j : classOfCode 2#2 = .j := rfl

@[simp] theorem classOfCode_s : classOfCode 3#2 = .s := rfl

theorem regFits_setWidth (a : RegIdx) : regFits (a.setWidth 32) = true := by
  have := a.isLt
  simp only [regFits, BitVec.toNat_setWidth, decide_eq_true_eq]
  omega

/-- The encoder's answer to an accepted request. -/
theorem encoder_of_accepted {r : EncodeRequest} (h : r.accepted = true) : encoder r = { word := r.packed, err := false } := by
  rw [encoder, if_pos h]

theorem encoder_requestR {op : Opcode} (h : classOf op = some .r) (a b c : RegIdx) :
    (encoder (requestR op a b c)).word = packR op a b c := by
  have hacc : (requestR op a b c).accepted = true := by
    simp [EncodeRequest.accepted, EncodeRequest.operandsFit, requestR, h, regFits_setWidth]
  rw [encoder_of_accepted hacc]
  simp [EncodeRequest.packed, requestR]

theorem encoder_requestI {op : Opcode} (h : classOf op = some .i) (a b : RegIdx) {imm : Word} (hi : immFits imm = true) :
    (encoder (requestI op a b imm)).word = packI op a b (imm.setWidth 18) := by
  have hacc : (requestI op a b imm).accepted = true := by
    simp [EncodeRequest.accepted, EncodeRequest.operandsFit, requestI, h, regFits_setWidth, hi]
  rw [encoder_of_accepted hacc]
  simp [EncodeRequest.packed, requestI]

theorem encoder_requestJ {op : Opcode} (h : classOf op = some .j) (addr : Addr) :
    (encoder (requestJ op addr)).word = packJ op addr := by
  have hlt : addr.toNat < 268435456 := addr.isLt
  have hacc : (requestJ op addr).accepted = true := by
    simp [EncodeRequest.accepted, EncodeRequest.operandsFit, requestJ, h]
    omega
  rw [encoder_of_accepted hacc]
  simp [EncodeRequest.packed, requestJ]

theorem encoder_requestS {op : Opcode} (h : classOf op = some .s) (a b : RegIdx) (n : Shamt) :
    (encoder (requestS op a b n)).word = packS op a b n := by
  have hlt : n.toNat < 8192 := n.isLt
  have hacc : (requestS op a b n).accepted = true := by
    simp [EncodeRequest.accepted, EncodeRequest.operandsFit, requestS, h, regFits_setWidth]
    omega
  rw [encoder_of_accepted hacc]
  simp [EncodeRequest.packed, requestS]

end Sys2Proof
end

