-- ==== Sys2Proof/Laws/State.lean ====
section
/-! SUPPORT. One lemma per field per update of the state, true by definition. -/

namespace Sys2Proof.Machine

/-! ### writeReg -/

@[simp] theorem State.writeReg_regs (s : State) (i : RegIdx) (v : Word) : (s.writeReg i v).regs = (s.regs.set i.toNat v i.isLt).set 0 0 := rfl
@[simp] theorem State.writeReg_pc (s : State) (i : RegIdx) (v : Word) : (s.writeReg i v).pc = s.pc := rfl
@[simp] theorem State.writeReg_mem (s : State) (i : RegIdx) (v : Word) : (s.writeReg i v).mem = s.mem := rfl
@[simp] theorem State.writeReg_F (s : State) (i : RegIdx) (v : Word) : (s.writeReg i v).F = s.F := rfl
@[simp] theorem State.writeReg_D (s : State) (i : RegIdx) (v : Word) : (s.writeReg i v).D = s.D := rfl
@[simp] theorem State.writeReg_E (s : State) (i : RegIdx) (v : Word) : (s.writeReg i v).E = s.E := rfl
@[simp] theorem State.writeReg_M (s : State) (i : RegIdx) (v : Word) : (s.writeReg i v).M = s.M := rfl
@[simp] theorem State.writeReg_W (s : State) (i : RegIdx) (v : Word) : (s.writeReg i v).W = s.W := rfl
@[simp] theorem State.writeReg_t (s : State) (i : RegIdx) (v : Word) : (s.writeReg i v).t = s.t := rfl
@[simp] theorem State.writeReg_n (s : State) (i : RegIdx) (v : Word) : (s.writeReg i v).n = s.n := rfl
@[simp] theorem State.writeReg_running (s : State) (i : RegIdx) (v : Word) : (s.writeReg i v).running = s.running := rfl
@[simp] theorem State.writeReg_halted (s : State) (i : RegIdx) (v : Word) : (s.writeReg i v).halted = s.halted := rfl
@[simp] theorem State.writeReg_abort (s : State) (i : RegIdx) (v : Word) : (s.writeReg i v).abort = s.abort := rfl
@[simp] theorem State.writeReg_abortKind (s : State) (i : RegIdx) (v : Word) : (s.writeReg i v).abortKind = s.abortKind := rfl
@[simp] theorem State.writeReg_abortAddr (s : State) (i : RegIdx) (v : Word) : (s.writeReg i v).abortAddr = s.abortAddr := rfl
@[simp] theorem State.writeReg_abortPc (s : State) (i : RegIdx) (v : Word) : (s.writeReg i v).abortPc = s.abortPc := rfl
@[simp] theorem State.writeReg_turn (s : State) (i : RegIdx) (v : Word) : (s.writeReg i v).turn = s.turn := rfl

/-! ### raiseAbort -/

@[simp] theorem State.raiseAbort_regs (s : State) (k : BitVec 2) : (s.raiseAbort k).regs = s.regs := rfl
@[simp] theorem State.raiseAbort_pc (s : State) (k : BitVec 2) : (s.raiseAbort k).pc = s.pc := rfl
@[simp] theorem State.raiseAbort_mem (s : State) (k : BitVec 2) : (s.raiseAbort k).mem = s.mem := rfl
@[simp] theorem State.raiseAbort_F (s : State) (k : BitVec 2) : (s.raiseAbort k).F = s.F := rfl
@[simp] theorem State.raiseAbort_D (s : State) (k : BitVec 2) : (s.raiseAbort k).D = s.D := rfl
@[simp] theorem State.raiseAbort_E (s : State) (k : BitVec 2) : (s.raiseAbort k).E = s.E := rfl
@[simp] theorem State.raiseAbort_M (s : State) (k : BitVec 2) : (s.raiseAbort k).M = s.M := rfl
@[simp] theorem State.raiseAbort_W (s : State) (k : BitVec 2) : (s.raiseAbort k).W = s.W := rfl
@[simp] theorem State.raiseAbort_t (s : State) (k : BitVec 2) : (s.raiseAbort k).t = s.t := rfl
@[simp] theorem State.raiseAbort_n (s : State) (k : BitVec 2) : (s.raiseAbort k).n = s.n := rfl
@[simp] theorem State.raiseAbort_running (s : State) (k : BitVec 2) : (s.raiseAbort k).running = false := rfl
@[simp] theorem State.raiseAbort_halted (s : State) (k : BitVec 2) : (s.raiseAbort k).halted = s.halted := rfl
@[simp] theorem State.raiseAbort_abort (s : State) (k : BitVec 2) : (s.raiseAbort k).abort = true := rfl
@[simp] theorem State.raiseAbort_abortKind (s : State) (k : BitVec 2) : (s.raiseAbort k).abortKind = k := rfl
@[simp] theorem State.raiseAbort_abortAddr (s : State) (k : BitVec 2) : (s.raiseAbort k).abortAddr = s.M.ea := rfl
@[simp] theorem State.raiseAbort_abortPc (s : State) (k : BitVec 2) : (s.raiseAbort k).abortPc = s.M.pc := rfl
@[simp] theorem State.raiseAbort_turn (s : State) (k : BitVec 2) : (s.raiseAbort k).turn = s.turn := rfl

/-! ### redirect -/

@[simp] theorem State.redirect_regs (s : State) (a : Word) : (s.redirect a).regs = s.regs := rfl
@[simp] theorem State.redirect_pc (s : State) (a : Word) : (s.redirect a).pc = a := rfl
@[simp] theorem State.redirect_mem (s : State) (a : Word) : (s.redirect a).mem = s.mem := rfl
@[simp] theorem State.redirect_F (s : State) (a : Word) : (s.redirect a).F = s.F := rfl
@[simp] theorem State.redirect_D (s : State) (a : Word) : (s.redirect a).D = s.D := rfl
@[simp] theorem State.redirect_E (s : State) (a : Word) : (s.redirect a).E = s.E := rfl
@[simp] theorem State.redirect_M (s : State) (a : Word) : (s.redirect a).M = s.M := rfl
@[simp] theorem State.redirect_W (s : State) (a : Word) : (s.redirect a).W = s.W := rfl
@[simp] theorem State.redirect_t (s : State) (a : Word) : (s.redirect a).t = s.t := rfl
@[simp] theorem State.redirect_n (s : State) (a : Word) : (s.redirect a).n = s.n := rfl
@[simp] theorem State.redirect_running (s : State) (a : Word) : (s.redirect a).running = s.running := rfl
@[simp] theorem State.redirect_halted (s : State) (a : Word) : (s.redirect a).halted = s.halted := rfl
@[simp] theorem State.redirect_abort (s : State) (a : Word) : (s.redirect a).abort = s.abort := rfl
@[simp] theorem State.redirect_abortKind (s : State) (a : Word) : (s.redirect a).abortKind = s.abortKind := rfl
@[simp] theorem State.redirect_abortAddr (s : State) (a : Word) : (s.redirect a).abortAddr = s.abortAddr := rfl
@[simp] theorem State.redirect_abortPc (s : State) (a : Word) : (s.redirect a).abortPc = s.abortPc := rfl
@[simp] theorem State.redirect_turn (s : State) (a : Word) : (s.redirect a).turn = s.turn := rfl

/-! ### markD -/

@[simp] theorem State.markD_regs (s : State) : (s.markD).regs = s.regs := rfl
@[simp] theorem State.markD_pc (s : State) : (s.markD).pc = s.pc := rfl
@[simp] theorem State.markD_mem (s : State) : (s.markD).mem = s.mem := rfl
@[simp] theorem State.markD_F (s : State) : (s.markD).F = s.F := rfl
@[simp] theorem State.markD_D (s : State) : (s.markD).D = { s.D with flush := true } := rfl
@[simp] theorem State.markD_E (s : State) : (s.markD).E = s.E := rfl
@[simp] theorem State.markD_M (s : State) : (s.markD).M = s.M := rfl
@[simp] theorem State.markD_W (s : State) : (s.markD).W = s.W := rfl
@[simp] theorem State.markD_t (s : State) : (s.markD).t = s.t := rfl
@[simp] theorem State.markD_n (s : State) : (s.markD).n = s.n := rfl
@[simp] theorem State.markD_running (s : State) : (s.markD).running = s.running := rfl
@[simp] theorem State.markD_halted (s : State) : (s.markD).halted = s.halted := rfl
@[simp] theorem State.markD_abort (s : State) : (s.markD).abort = s.abort := rfl
@[simp] theorem State.markD_abortKind (s : State) : (s.markD).abortKind = s.abortKind := rfl
@[simp] theorem State.markD_abortAddr (s : State) : (s.markD).abortAddr = s.abortAddr := rfl
@[simp] theorem State.markD_abortPc (s : State) : (s.markD).abortPc = s.abortPc := rfl
@[simp] theorem State.markD_turn (s : State) : (s.markD).turn = s.turn := rfl

/-! ### markF -/

@[simp] theorem State.markF_regs (s : State) : (s.markF).regs = s.regs := rfl
@[simp] theorem State.markF_pc (s : State) : (s.markF).pc = s.pc := rfl
@[simp] theorem State.markF_mem (s : State) : (s.markF).mem = s.mem := rfl
@[simp] theorem State.markF_F (s : State) : (s.markF).F = { s.F with flush := true } := rfl
@[simp] theorem State.markF_D (s : State) : (s.markF).D = s.D := rfl
@[simp] theorem State.markF_E (s : State) : (s.markF).E = s.E := rfl
@[simp] theorem State.markF_M (s : State) : (s.markF).M = s.M := rfl
@[simp] theorem State.markF_W (s : State) : (s.markF).W = s.W := rfl
@[simp] theorem State.markF_t (s : State) : (s.markF).t = s.t := rfl
@[simp] theorem State.markF_n (s : State) : (s.markF).n = s.n := rfl
@[simp] theorem State.markF_running (s : State) : (s.markF).running = s.running := rfl
@[simp] theorem State.markF_halted (s : State) : (s.markF).halted = s.halted := rfl
@[simp] theorem State.markF_abort (s : State) : (s.markF).abort = s.abort := rfl
@[simp] theorem State.markF_abortKind (s : State) : (s.markF).abortKind = s.abortKind := rfl
@[simp] theorem State.markF_abortAddr (s : State) : (s.markF).abortAddr = s.abortAddr := rfl
@[simp] theorem State.markF_abortPc (s : State) : (s.markF).abortPc = s.abortPc := rfl
@[simp] theorem State.markF_turn (s : State) : (s.markF).turn = s.turn := rfl

/-! ### latchOperands -/

@[simp] theorem State.latchOperands_regs (s : State) (rb rc : RegIdx) : (s.latchOperands rb rc).regs = s.regs := rfl
@[simp] theorem State.latchOperands_pc (s : State) (rb rc : RegIdx) : (s.latchOperands rb rc).pc = s.pc := rfl
@[simp] theorem State.latchOperands_mem (s : State) (rb rc : RegIdx) : (s.latchOperands rb rc).mem = s.mem := rfl
@[simp] theorem State.latchOperands_F (s : State) (rb rc : RegIdx) : (s.latchOperands rb rc).F = s.F := rfl
@[simp] theorem State.latchOperands_D (s : State) (rb rc : RegIdx) : (s.latchOperands rb rc).D = { s.D with dec := decodeFields s.D.word, valB := s.readReg rb, valC := s.readReg rc } := rfl
@[simp] theorem State.latchOperands_E (s : State) (rb rc : RegIdx) : (s.latchOperands rb rc).E = s.E := rfl
@[simp] theorem State.latchOperands_M (s : State) (rb rc : RegIdx) : (s.latchOperands rb rc).M = s.M := rfl
@[simp] theorem State.latchOperands_W (s : State) (rb rc : RegIdx) : (s.latchOperands rb rc).W = s.W := rfl
@[simp] theorem State.latchOperands_t (s : State) (rb rc : RegIdx) : (s.latchOperands rb rc).t = s.t := rfl
@[simp] theorem State.latchOperands_n (s : State) (rb rc : RegIdx) : (s.latchOperands rb rc).n = s.n := rfl
@[simp] theorem State.latchOperands_running (s : State) (rb rc : RegIdx) : (s.latchOperands rb rc).running = s.running := rfl
@[simp] theorem State.latchOperands_halted (s : State) (rb rc : RegIdx) : (s.latchOperands rb rc).halted = s.halted := rfl
@[simp] theorem State.latchOperands_abort (s : State) (rb rc : RegIdx) : (s.latchOperands rb rc).abort = s.abort := rfl
@[simp] theorem State.latchOperands_abortKind (s : State) (rb rc : RegIdx) : (s.latchOperands rb rc).abortKind = s.abortKind := rfl
@[simp] theorem State.latchOperands_abortAddr (s : State) (rb rc : RegIdx) : (s.latchOperands rb rc).abortAddr = s.abortAddr := rfl
@[simp] theorem State.latchOperands_abortPc (s : State) (rb rc : RegIdx) : (s.latchOperands rb rc).abortPc = s.abortPc := rfl
@[simp] theorem State.latchOperands_turn (s : State) (rb rc : RegIdx) : (s.latchOperands rb rc).turn = s.turn := rfl

/-! ### setResult -/

@[simp] theorem State.setResult_regs (s : State) (v : Word) : (s.setResult v).regs = s.regs := rfl
@[simp] theorem State.setResult_pc (s : State) (v : Word) : (s.setResult v).pc = s.pc := rfl
@[simp] theorem State.setResult_mem (s : State) (v : Word) : (s.setResult v).mem = s.mem := rfl
@[simp] theorem State.setResult_F (s : State) (v : Word) : (s.setResult v).F = s.F := rfl
@[simp] theorem State.setResult_D (s : State) (v : Word) : (s.setResult v).D = s.D := rfl
@[simp] theorem State.setResult_E (s : State) (v : Word) : (s.setResult v).E = { s.E with result := v } := rfl
@[simp] theorem State.setResult_M (s : State) (v : Word) : (s.setResult v).M = s.M := rfl
@[simp] theorem State.setResult_W (s : State) (v : Word) : (s.setResult v).W = s.W := rfl
@[simp] theorem State.setResult_t (s : State) (v : Word) : (s.setResult v).t = s.t := rfl
@[simp] theorem State.setResult_n (s : State) (v : Word) : (s.setResult v).n = s.n := rfl
@[simp] theorem State.setResult_running (s : State) (v : Word) : (s.setResult v).running = s.running := rfl
@[simp] theorem State.setResult_halted (s : State) (v : Word) : (s.setResult v).halted = s.halted := rfl
@[simp] theorem State.setResult_abort (s : State) (v : Word) : (s.setResult v).abort = s.abort := rfl
@[simp] theorem State.setResult_abortKind (s : State) (v : Word) : (s.setResult v).abortKind = s.abortKind := rfl
@[simp] theorem State.setResult_abortAddr (s : State) (v : Word) : (s.setResult v).abortAddr = s.abortAddr := rfl
@[simp] theorem State.setResult_abortPc (s : State) (v : Word) : (s.setResult v).abortPc = s.abortPc := rfl
@[simp] theorem State.setResult_turn (s : State) (v : Word) : (s.setResult v).turn = s.turn := rfl

/-! ### setEa -/

@[simp] theorem State.setEa_regs (s : State) (imm : Word) : (s.setEa imm).regs = s.regs := rfl
@[simp] theorem State.setEa_pc (s : State) (imm : Word) : (s.setEa imm).pc = s.pc := rfl
@[simp] theorem State.setEa_mem (s : State) (imm : Word) : (s.setEa imm).mem = s.mem := rfl
@[simp] theorem State.setEa_F (s : State) (imm : Word) : (s.setEa imm).F = s.F := rfl
@[simp] theorem State.setEa_D (s : State) (imm : Word) : (s.setEa imm).D = s.D := rfl
@[simp] theorem State.setEa_E (s : State) (imm : Word) : (s.setEa imm).E = { s.E with ea := s.E.valB + imm } := rfl
@[simp] theorem State.setEa_M (s : State) (imm : Word) : (s.setEa imm).M = s.M := rfl
@[simp] theorem State.setEa_W (s : State) (imm : Word) : (s.setEa imm).W = s.W := rfl
@[simp] theorem State.setEa_t (s : State) (imm : Word) : (s.setEa imm).t = s.t := rfl
@[simp] theorem State.setEa_n (s : State) (imm : Word) : (s.setEa imm).n = s.n := rfl
@[simp] theorem State.setEa_running (s : State) (imm : Word) : (s.setEa imm).running = s.running := rfl
@[simp] theorem State.setEa_halted (s : State) (imm : Word) : (s.setEa imm).halted = s.halted := rfl
@[simp] theorem State.setEa_abort (s : State) (imm : Word) : (s.setEa imm).abort = s.abort := rfl
@[simp] theorem State.setEa_abortKind (s : State) (imm : Word) : (s.setEa imm).abortKind = s.abortKind := rfl
@[simp] theorem State.setEa_abortAddr (s : State) (imm : Word) : (s.setEa imm).abortAddr = s.abortAddr := rfl
@[simp] theorem State.setEa_abortPc (s : State) (imm : Word) : (s.setEa imm).abortPc = s.abortPc := rfl
@[simp] theorem State.setEa_turn (s : State) (imm : Word) : (s.setEa imm).turn = s.turn := rfl

/-! ### tick -/

@[simp] theorem State.tick_regs (s : State) : (s.tick).regs = s.regs := rfl
@[simp] theorem State.tick_pc (s : State) : (s.tick).pc = s.pc := rfl
@[simp] theorem State.tick_mem (s : State) : (s.tick).mem = s.mem := rfl
@[simp] theorem State.tick_F (s : State) : (s.tick).F = s.F := rfl
@[simp] theorem State.tick_D (s : State) : (s.tick).D = s.D := rfl
@[simp] theorem State.tick_E (s : State) : (s.tick).E = s.E := rfl
@[simp] theorem State.tick_M (s : State) : (s.tick).M = s.M := rfl
@[simp] theorem State.tick_W (s : State) : (s.tick).W = s.W := rfl
@[simp] theorem State.tick_t (s : State) : (s.tick).t = s.t + 1 := rfl
@[simp] theorem State.tick_n (s : State) : (s.tick).n = s.n := rfl
@[simp] theorem State.tick_running (s : State) : (s.tick).running = s.running := rfl
@[simp] theorem State.tick_halted (s : State) : (s.tick).halted = s.halted := rfl
@[simp] theorem State.tick_abort (s : State) : (s.tick).abort = s.abort := rfl
@[simp] theorem State.tick_abortKind (s : State) : (s.tick).abortKind = s.abortKind := rfl
@[simp] theorem State.tick_abortAddr (s : State) : (s.tick).abortAddr = s.abortAddr := rfl
@[simp] theorem State.tick_abortPc (s : State) : (s.tick).abortPc = s.abortPc := rfl
@[simp] theorem State.tick_turn (s : State) : (s.tick).turn = s.turn := rfl

/-! ### fetchWord -/

@[simp] theorem State.fetchWord_regs (s : State) (w : Word) : (s.fetchWord w).regs = s.regs := rfl
@[simp] theorem State.fetchWord_pc (s : State) (w : Word) : (s.fetchWord w).pc = s.pc + 1 := rfl
@[simp] theorem State.fetchWord_mem (s : State) (w : Word) : (s.fetchWord w).mem = s.mem := rfl
@[simp] theorem State.fetchWord_F (s : State) (w : Word) : (s.fetchWord w).F = { Context.bubble with valid := true, word := w, pc := s.pc + 1 } := rfl
@[simp] theorem State.fetchWord_D (s : State) (w : Word) : (s.fetchWord w).D = s.D := rfl
@[simp] theorem State.fetchWord_E (s : State) (w : Word) : (s.fetchWord w).E = s.E := rfl
@[simp] theorem State.fetchWord_M (s : State) (w : Word) : (s.fetchWord w).M = s.M := rfl
@[simp] theorem State.fetchWord_W (s : State) (w : Word) : (s.fetchWord w).W = s.W := rfl
@[simp] theorem State.fetchWord_t (s : State) (w : Word) : (s.fetchWord w).t = s.t := rfl
@[simp] theorem State.fetchWord_n (s : State) (w : Word) : (s.fetchWord w).n = s.n := rfl
@[simp] theorem State.fetchWord_running (s : State) (w : Word) : (s.fetchWord w).running = s.running := rfl
@[simp] theorem State.fetchWord_halted (s : State) (w : Word) : (s.fetchWord w).halted = s.halted := rfl
@[simp] theorem State.fetchWord_abort (s : State) (w : Word) : (s.fetchWord w).abort = s.abort := rfl
@[simp] theorem State.fetchWord_abortKind (s : State) (w : Word) : (s.fetchWord w).abortKind = s.abortKind := rfl
@[simp] theorem State.fetchWord_abortAddr (s : State) (w : Word) : (s.fetchWord w).abortAddr = s.abortAddr := rfl
@[simp] theorem State.fetchWord_abortPc (s : State) (w : Word) : (s.fetchWord w).abortPc = s.abortPc := rfl
@[simp] theorem State.fetchWord_turn (s : State) (w : Word) : (s.fetchWord w).turn = s.turn := rfl

/-! ### fetchBubble -/

@[simp] theorem State.fetchBubble_regs (s : State) : (s.fetchBubble).regs = s.regs := rfl
@[simp] theorem State.fetchBubble_pc (s : State) : (s.fetchBubble).pc = s.pc := rfl
@[simp] theorem State.fetchBubble_mem (s : State) : (s.fetchBubble).mem = s.mem := rfl
@[simp] theorem State.fetchBubble_F (s : State) : (s.fetchBubble).F = { s.F with valid := false } := rfl
@[simp] theorem State.fetchBubble_D (s : State) : (s.fetchBubble).D = s.D := rfl
@[simp] theorem State.fetchBubble_E (s : State) : (s.fetchBubble).E = s.E := rfl
@[simp] theorem State.fetchBubble_M (s : State) : (s.fetchBubble).M = s.M := rfl
@[simp] theorem State.fetchBubble_W (s : State) : (s.fetchBubble).W = s.W := rfl
@[simp] theorem State.fetchBubble_t (s : State) : (s.fetchBubble).t = s.t := rfl
@[simp] theorem State.fetchBubble_n (s : State) : (s.fetchBubble).n = s.n := rfl
@[simp] theorem State.fetchBubble_running (s : State) : (s.fetchBubble).running = s.running := rfl
@[simp] theorem State.fetchBubble_halted (s : State) : (s.fetchBubble).halted = s.halted := rfl
@[simp] theorem State.fetchBubble_abort (s : State) : (s.fetchBubble).abort = s.abort := rfl
@[simp] theorem State.fetchBubble_abortKind (s : State) : (s.fetchBubble).abortKind = s.abortKind := rfl
@[simp] theorem State.fetchBubble_abortAddr (s : State) : (s.fetchBubble).abortAddr = s.abortAddr := rfl
@[simp] theorem State.fetchBubble_abortPc (s : State) : (s.fetchBubble).abortPc = s.abortPc := rfl
@[simp] theorem State.fetchBubble_turn (s : State) : (s.fetchBubble).turn = s.turn := rfl

/-! ### hostLoad -/

@[simp] theorem State.hostLoad_regs (s : State) (a : BitVec 11) (v : Word) : (s.hostLoad a v).regs = s.regs := rfl
@[simp] theorem State.hostLoad_pc (s : State) (a : BitVec 11) (v : Word) : (s.hostLoad a v).pc = s.pc := rfl
@[simp] theorem State.hostLoad_mem (s : State) (a : BitVec 11) (v : Word) : (s.hostLoad a v).mem = Memory.write s.mem a.toNat v := rfl
@[simp] theorem State.hostLoad_F (s : State) (a : BitVec 11) (v : Word) : (s.hostLoad a v).F = s.F := rfl
@[simp] theorem State.hostLoad_D (s : State) (a : BitVec 11) (v : Word) : (s.hostLoad a v).D = s.D := rfl
@[simp] theorem State.hostLoad_E (s : State) (a : BitVec 11) (v : Word) : (s.hostLoad a v).E = s.E := rfl
@[simp] theorem State.hostLoad_M (s : State) (a : BitVec 11) (v : Word) : (s.hostLoad a v).M = s.M := rfl
@[simp] theorem State.hostLoad_W (s : State) (a : BitVec 11) (v : Word) : (s.hostLoad a v).W = s.W := rfl
@[simp] theorem State.hostLoad_t (s : State) (a : BitVec 11) (v : Word) : (s.hostLoad a v).t = s.t := rfl
@[simp] theorem State.hostLoad_n (s : State) (a : BitVec 11) (v : Word) : (s.hostLoad a v).n = s.n := rfl
@[simp] theorem State.hostLoad_running (s : State) (a : BitVec 11) (v : Word) : (s.hostLoad a v).running = s.running := rfl
@[simp] theorem State.hostLoad_halted (s : State) (a : BitVec 11) (v : Word) : (s.hostLoad a v).halted = s.halted := rfl
@[simp] theorem State.hostLoad_abort (s : State) (a : BitVec 11) (v : Word) : (s.hostLoad a v).abort = s.abort := rfl
@[simp] theorem State.hostLoad_abortKind (s : State) (a : BitVec 11) (v : Word) : (s.hostLoad a v).abortKind = s.abortKind := rfl
@[simp] theorem State.hostLoad_abortAddr (s : State) (a : BitVec 11) (v : Word) : (s.hostLoad a v).abortAddr = s.abortAddr := rfl
@[simp] theorem State.hostLoad_abortPc (s : State) (a : BitVec 11) (v : Word) : (s.hostLoad a v).abortPc = s.abortPc := rfl
@[simp] theorem State.hostLoad_turn (s : State) (a : BitVec 11) (v : Word) : (s.hostLoad a v).turn = s.turn := rfl

/-! ### setTurn -/

@[simp] theorem State.setTurn_regs (s : State) (u : Turn) : (s.setTurn u).regs = s.regs := rfl
@[simp] theorem State.setTurn_pc (s : State) (u : Turn) : (s.setTurn u).pc = s.pc := rfl
@[simp] theorem State.setTurn_mem (s : State) (u : Turn) : (s.setTurn u).mem = s.mem := rfl
@[simp] theorem State.setTurn_F (s : State) (u : Turn) : (s.setTurn u).F = s.F := rfl
@[simp] theorem State.setTurn_D (s : State) (u : Turn) : (s.setTurn u).D = s.D := rfl
@[simp] theorem State.setTurn_E (s : State) (u : Turn) : (s.setTurn u).E = s.E := rfl
@[simp] theorem State.setTurn_M (s : State) (u : Turn) : (s.setTurn u).M = s.M := rfl
@[simp] theorem State.setTurn_W (s : State) (u : Turn) : (s.setTurn u).W = s.W := rfl
@[simp] theorem State.setTurn_t (s : State) (u : Turn) : (s.setTurn u).t = s.t := rfl
@[simp] theorem State.setTurn_n (s : State) (u : Turn) : (s.setTurn u).n = s.n := rfl
@[simp] theorem State.setTurn_running (s : State) (u : Turn) : (s.setTurn u).running = s.running := rfl
@[simp] theorem State.setTurn_halted (s : State) (u : Turn) : (s.setTurn u).halted = s.halted := rfl
@[simp] theorem State.setTurn_abort (s : State) (u : Turn) : (s.setTurn u).abort = s.abort := rfl
@[simp] theorem State.setTurn_abortKind (s : State) (u : Turn) : (s.setTurn u).abortKind = s.abortKind := rfl
@[simp] theorem State.setTurn_abortAddr (s : State) (u : Turn) : (s.setTurn u).abortAddr = s.abortAddr := rfl
@[simp] theorem State.setTurn_abortPc (s : State) (u : Turn) : (s.setTurn u).abortPc = s.abortPc := rfl
@[simp] theorem State.setTurn_turn (s : State) (u : Turn) : (s.setTurn u).turn = u := rfl

/-! ### halt -/

@[simp] theorem State.halt_regs (s : State) : (s.halt).regs = s.regs := rfl
@[simp] theorem State.halt_pc (s : State) : (s.halt).pc = s.pc := rfl
@[simp] theorem State.halt_mem (s : State) : (s.halt).mem = s.mem := rfl
@[simp] theorem State.halt_F (s : State) : (s.halt).F = s.F := rfl
@[simp] theorem State.halt_D (s : State) : (s.halt).D = s.D := rfl
@[simp] theorem State.halt_E (s : State) : (s.halt).E = s.E := rfl
@[simp] theorem State.halt_M (s : State) : (s.halt).M = s.M := rfl
@[simp] theorem State.halt_W (s : State) : (s.halt).W = s.W := rfl
@[simp] theorem State.halt_t (s : State) : (s.halt).t = s.t := rfl
@[simp] theorem State.halt_n (s : State) : (s.halt).n = s.n := rfl
@[simp] theorem State.halt_running (s : State) : (s.halt).running = false := rfl
@[simp] theorem State.halt_halted (s : State) : (s.halt).halted = true := rfl
@[simp] theorem State.halt_abort (s : State) : (s.halt).abort = s.abort := rfl
@[simp] theorem State.halt_abortKind (s : State) : (s.halt).abortKind = s.abortKind := rfl
@[simp] theorem State.halt_abortAddr (s : State) : (s.halt).abortAddr = s.abortAddr := rfl
@[simp] theorem State.halt_abortPc (s : State) : (s.halt).abortPc = s.abortPc := rfl
@[simp] theorem State.halt_turn (s : State) : (s.halt).turn = s.turn := rfl

/-! ### storeWord -/

@[simp] theorem State.storeWord_regs (s : State) (a v : Word) : (s.storeWord a v).regs = s.regs := rfl
@[simp] theorem State.storeWord_pc (s : State) (a v : Word) : (s.storeWord a v).pc = s.pc := rfl
@[simp] theorem State.storeWord_mem (s : State) (a v : Word) : (s.storeWord a v).mem = Memory.write s.mem a.toNat v := rfl
@[simp] theorem State.storeWord_F (s : State) (a v : Word) : (s.storeWord a v).F = s.F := rfl
@[simp] theorem State.storeWord_D (s : State) (a v : Word) : (s.storeWord a v).D = s.D := rfl
@[simp] theorem State.storeWord_E (s : State) (a v : Word) : (s.storeWord a v).E = s.E := rfl
@[simp] theorem State.storeWord_M (s : State) (a v : Word) : (s.storeWord a v).M = s.M := rfl
@[simp] theorem State.storeWord_W (s : State) (a v : Word) : (s.storeWord a v).W = s.W := rfl
@[simp] theorem State.storeWord_t (s : State) (a v : Word) : (s.storeWord a v).t = s.t := rfl
@[simp] theorem State.storeWord_n (s : State) (a v : Word) : (s.storeWord a v).n = s.n := rfl
@[simp] theorem State.storeWord_running (s : State) (a v : Word) : (s.storeWord a v).running = s.running := rfl
@[simp] theorem State.storeWord_halted (s : State) (a v : Word) : (s.storeWord a v).halted = s.halted := rfl
@[simp] theorem State.storeWord_abort (s : State) (a v : Word) : (s.storeWord a v).abort = s.abort := rfl
@[simp] theorem State.storeWord_abortKind (s : State) (a v : Word) : (s.storeWord a v).abortKind = s.abortKind := rfl
@[simp] theorem State.storeWord_abortAddr (s : State) (a v : Word) : (s.storeWord a v).abortAddr = s.abortAddr := rfl
@[simp] theorem State.storeWord_abortPc (s : State) (a v : Word) : (s.storeWord a v).abortPc = s.abortPc := rfl
@[simp] theorem State.storeWord_turn (s : State) (a v : Word) : (s.storeWord a v).turn = s.turn := rfl

/-! ### setLoaded -/

@[simp] theorem State.setLoaded_regs (s : State) (v : Word) : (s.setLoaded v).regs = s.regs := rfl
@[simp] theorem State.setLoaded_pc (s : State) (v : Word) : (s.setLoaded v).pc = s.pc := rfl
@[simp] theorem State.setLoaded_mem (s : State) (v : Word) : (s.setLoaded v).mem = s.mem := rfl
@[simp] theorem State.setLoaded_F (s : State) (v : Word) : (s.setLoaded v).F = s.F := rfl
@[simp] theorem State.setLoaded_D (s : State) (v : Word) : (s.setLoaded v).D = s.D := rfl
@[simp] theorem State.setLoaded_E (s : State) (v : Word) : (s.setLoaded v).E = s.E := rfl
@[simp] theorem State.setLoaded_M (s : State) (v : Word) : (s.setLoaded v).M = { s.M with result := v } := rfl
@[simp] theorem State.setLoaded_W (s : State) (v : Word) : (s.setLoaded v).W = s.W := rfl
@[simp] theorem State.setLoaded_t (s : State) (v : Word) : (s.setLoaded v).t = s.t := rfl
@[simp] theorem State.setLoaded_n (s : State) (v : Word) : (s.setLoaded v).n = s.n := rfl
@[simp] theorem State.setLoaded_running (s : State) (v : Word) : (s.setLoaded v).running = s.running := rfl
@[simp] theorem State.setLoaded_halted (s : State) (v : Word) : (s.setLoaded v).halted = s.halted := rfl
@[simp] theorem State.setLoaded_abort (s : State) (v : Word) : (s.setLoaded v).abort = s.abort := rfl
@[simp] theorem State.setLoaded_abortKind (s : State) (v : Word) : (s.setLoaded v).abortKind = s.abortKind := rfl
@[simp] theorem State.setLoaded_abortAddr (s : State) (v : Word) : (s.setLoaded v).abortAddr = s.abortAddr := rfl
@[simp] theorem State.setLoaded_abortPc (s : State) (v : Word) : (s.setLoaded v).abortPc = s.abortPc := rfl
@[simp] theorem State.setLoaded_turn (s : State) (v : Word) : (s.setLoaded v).turn = s.turn := rfl

/-! ### copies -/

@[simp] theorem State.copies_F (s : State) : (s.copies).F = s.F := by
  unfold State.copies; split <;> rfl
@[simp] theorem State.copies_regs (s : State) : (s.copies).regs = s.regs := by
  unfold State.copies; split <;> rfl
@[simp] theorem State.copies_pc (s : State) : (s.copies).pc = s.pc := by
  unfold State.copies; split <;> rfl
@[simp] theorem State.copies_mem (s : State) : (s.copies).mem = s.mem := by
  unfold State.copies; split <;> rfl
@[simp] theorem State.copies_t (s : State) : (s.copies).t = s.t := by
  unfold State.copies; split <;> rfl
@[simp] theorem State.copies_n (s : State) : (s.copies).n = s.n := by
  unfold State.copies; split <;> rfl
@[simp] theorem State.copies_running (s : State) : (s.copies).running = s.running := by
  unfold State.copies; split <;> rfl
@[simp] theorem State.copies_halted (s : State) : (s.copies).halted = s.halted := by
  unfold State.copies; split <;> rfl
@[simp] theorem State.copies_abort (s : State) : (s.copies).abort = s.abort := by
  unfold State.copies; split <;> rfl
@[simp] theorem State.copies_abortKind (s : State) : (s.copies).abortKind = s.abortKind := by
  unfold State.copies; split <;> rfl
@[simp] theorem State.copies_abortAddr (s : State) : (s.copies).abortAddr = s.abortAddr := by
  unfold State.copies; split <;> rfl
@[simp] theorem State.copies_abortPc (s : State) : (s.copies).abortPc = s.abortPc := by
  unfold State.copies; split <;> rfl
@[simp] theorem State.copies_turn (s : State) : (s.copies).turn = s.turn := by
  unfold State.copies; split <;> rfl

/-! ### haltTest -/

@[simp] theorem State.haltTest_regs (s : State) : (s.haltTest).regs = s.regs := by
  unfold State.haltTest; split <;> rfl
@[simp] theorem State.haltTest_pc (s : State) : (s.haltTest).pc = s.pc := by
  unfold State.haltTest; split <;> rfl
@[simp] theorem State.haltTest_mem (s : State) : (s.haltTest).mem = s.mem := by
  unfold State.haltTest; split <;> rfl
@[simp] theorem State.haltTest_F (s : State) : (s.haltTest).F = s.F := by
  unfold State.haltTest; split <;> rfl
@[simp] theorem State.haltTest_D (s : State) : (s.haltTest).D = s.D := by
  unfold State.haltTest; split <;> rfl
@[simp] theorem State.haltTest_E (s : State) : (s.haltTest).E = s.E := by
  unfold State.haltTest; split <;> rfl
@[simp] theorem State.haltTest_M (s : State) : (s.haltTest).M = s.M := by
  unfold State.haltTest; split <;> rfl
@[simp] theorem State.haltTest_W (s : State) : (s.haltTest).W = s.W := by
  unfold State.haltTest; split <;> rfl
@[simp] theorem State.haltTest_t (s : State) : (s.haltTest).t = s.t := by
  unfold State.haltTest; split <;> rfl
@[simp] theorem State.haltTest_n (s : State) : (s.haltTest).n = s.n := by
  unfold State.haltTest; split <;> rfl
@[simp] theorem State.haltTest_abort (s : State) : (s.haltTest).abort = s.abort := by
  unfold State.haltTest; split <;> rfl
@[simp] theorem State.haltTest_abortKind (s : State) : (s.haltTest).abortKind = s.abortKind := by
  unfold State.haltTest; split <;> rfl
@[simp] theorem State.haltTest_abortAddr (s : State) : (s.haltTest).abortAddr = s.abortAddr := by
  unfold State.haltTest; split <;> rfl
@[simp] theorem State.haltTest_abortPc (s : State) : (s.haltTest).abortPc = s.abortPc := by
  unfold State.haltTest; split <;> rfl
@[simp] theorem State.haltTest_turn (s : State) : (s.haltTest).turn = s.turn := by
  unfold State.haltTest; split <;> rfl

/-! ### hostCount -/

@[simp] theorem State.hostCount_regs (s : State) (v : BitVec 12) : (s.hostCount v).regs = s.regs := by
  unfold State.hostCount; split <;> rfl
@[simp] theorem State.hostCount_pc (s : State) (v : BitVec 12) : (s.hostCount v).pc = s.pc := by
  unfold State.hostCount; split <;> rfl
@[simp] theorem State.hostCount_mem (s : State) (v : BitVec 12) : (s.hostCount v).mem = s.mem := by
  unfold State.hostCount; split <;> rfl
@[simp] theorem State.hostCount_F (s : State) (v : BitVec 12) : (s.hostCount v).F = s.F := by
  unfold State.hostCount; split <;> rfl
@[simp] theorem State.hostCount_D (s : State) (v : BitVec 12) : (s.hostCount v).D = s.D := by
  unfold State.hostCount; split <;> rfl
@[simp] theorem State.hostCount_E (s : State) (v : BitVec 12) : (s.hostCount v).E = s.E := by
  unfold State.hostCount; split <;> rfl
@[simp] theorem State.hostCount_M (s : State) (v : BitVec 12) : (s.hostCount v).M = s.M := by
  unfold State.hostCount; split <;> rfl
@[simp] theorem State.hostCount_W (s : State) (v : BitVec 12) : (s.hostCount v).W = s.W := by
  unfold State.hostCount; split <;> rfl
@[simp] theorem State.hostCount_t (s : State) (v : BitVec 12) : (s.hostCount v).t = s.t := by
  unfold State.hostCount; split <;> rfl
@[simp] theorem State.hostCount_running (s : State) (v : BitVec 12) : (s.hostCount v).running = s.running := by
  unfold State.hostCount; split <;> rfl
@[simp] theorem State.hostCount_halted (s : State) (v : BitVec 12) : (s.hostCount v).halted = s.halted := by
  unfold State.hostCount; split <;> rfl
@[simp] theorem State.hostCount_abort (s : State) (v : BitVec 12) : (s.hostCount v).abort = s.abort := by
  unfold State.hostCount; split <;> rfl
@[simp] theorem State.hostCount_abortKind (s : State) (v : BitVec 12) : (s.hostCount v).abortKind = s.abortKind := by
  unfold State.hostCount; split <;> rfl
@[simp] theorem State.hostCount_abortAddr (s : State) (v : BitVec 12) : (s.hostCount v).abortAddr = s.abortAddr := by
  unfold State.hostCount; split <;> rfl
@[simp] theorem State.hostCount_abortPc (s : State) (v : BitVec 12) : (s.hostCount v).abortPc = s.abortPc := by
  unfold State.hostCount; split <;> rfl
@[simp] theorem State.hostCount_turn (s : State) (v : BitVec 12) : (s.hostCount v).turn = s.turn := by
  unfold State.hostCount; split <;> rfl

@[simp] theorem State.copies_W (s : State) : s.copies.W = s.M := by
  unfold State.copies; split <;> rfl

@[simp] theorem State.copies_M (s : State) : s.copies.M = s.E := by
  unfold State.copies; split <;> rfl

theorem State.copies_E (s : State) : s.copies.E = if s.evenTick then s.D else s.E := by
  unfold State.copies; split <;> rfl

theorem State.copies_D (s : State) : s.copies.D = if s.evenTick then s.F else s.D := by
  unfold State.copies; split <;> rfl

/-! ### The tick's parity, and the turn -/

@[simp] theorem State.writeReg_evenTick (s : State) (i : RegIdx) (v : Word) : (s.writeReg i v).evenTick = s.evenTick := rfl
@[simp] theorem State.raiseAbort_evenTick (s : State) (k : BitVec 2) : (s.raiseAbort k).evenTick = s.evenTick := rfl
@[simp] theorem State.redirect_evenTick (s : State) (a : Word) : (s.redirect a).evenTick = s.evenTick := rfl
@[simp] theorem State.markD_evenTick (s : State) : (s.markD).evenTick = s.evenTick := rfl
@[simp] theorem State.markF_evenTick (s : State) : (s.markF).evenTick = s.evenTick := rfl
@[simp] theorem State.latchOperands_evenTick (s : State) (rb rc : RegIdx) : (s.latchOperands rb rc).evenTick = s.evenTick := rfl
@[simp] theorem State.setResult_evenTick (s : State) (v : Word) : (s.setResult v).evenTick = s.evenTick := rfl
@[simp] theorem State.setEa_evenTick (s : State) (imm : Word) : (s.setEa imm).evenTick = s.evenTick := rfl
@[simp] theorem State.fetchWord_evenTick (s : State) (w : Word) : (s.fetchWord w).evenTick = s.evenTick := rfl
@[simp] theorem State.fetchBubble_evenTick (s : State) : (s.fetchBubble).evenTick = s.evenTick := rfl
@[simp] theorem State.halt_evenTick (s : State) : (s.halt).evenTick = s.evenTick := rfl
@[simp] theorem State.storeWord_evenTick (s : State) (a v : Word) : (s.storeWord a v).evenTick = s.evenTick := rfl
@[simp] theorem State.setLoaded_evenTick (s : State) (v : Word) : (s.setLoaded v).evenTick = s.evenTick := rfl
@[simp] theorem State.setTurn_evenTick (s : State) (u : Turn) : (s.setTurn u).evenTick = s.evenTick := rfl

@[simp] theorem State.setTurn_writeReg (s : State) (u : Turn) (i : RegIdx) (v : Word) : (s.setTurn u).writeReg i v = (s.writeReg i v).setTurn u := rfl
@[simp] theorem State.setTurn_raiseAbort (s : State) (u : Turn) (k : BitVec 2) : (s.setTurn u).raiseAbort k = (s.raiseAbort k).setTurn u := rfl
@[simp] theorem State.setTurn_redirect (s : State) (u : Turn) (a : Word) : (s.setTurn u).redirect a = (s.redirect a).setTurn u := rfl
@[simp] theorem State.setTurn_markD (s : State) (u : Turn) : (s.setTurn u).markD = (s.markD).setTurn u := rfl
@[simp] theorem State.setTurn_markF (s : State) (u : Turn) : (s.setTurn u).markF = (s.markF).setTurn u := rfl
@[simp] theorem State.setTurn_latchOperands (s : State) (u : Turn) (rb rc : RegIdx) : (s.setTurn u).latchOperands rb rc = (s.latchOperands rb rc).setTurn u := rfl
@[simp] theorem State.setTurn_setResult (s : State) (u : Turn) (v : Word) : (s.setTurn u).setResult v = (s.setResult v).setTurn u := rfl
@[simp] theorem State.setTurn_setEa (s : State) (u : Turn) (imm : Word) : (s.setTurn u).setEa imm = (s.setEa imm).setTurn u := rfl
@[simp] theorem State.setTurn_fetchWord (s : State) (u : Turn) (w : Word) : (s.setTurn u).fetchWord w = (s.fetchWord w).setTurn u := rfl
@[simp] theorem State.setTurn_fetchBubble (s : State) (u : Turn) : (s.setTurn u).fetchBubble = (s.fetchBubble).setTurn u := rfl
@[simp] theorem State.setTurn_halt (s : State) (u : Turn) : (s.setTurn u).halt = (s.halt).setTurn u := rfl
@[simp] theorem State.setTurn_storeWord (s : State) (u : Turn) (a v : Word) : (s.setTurn u).storeWord a v = (s.storeWord a v).setTurn u := rfl
@[simp] theorem State.setTurn_setLoaded (s : State) (u : Turn) (v : Word) : (s.setTurn u).setLoaded v = (s.setLoaded v).setTurn u := rfl
@[simp] theorem State.setTurn_setTurn (s : State) (u u' : Turn) : (s.setTurn u).setTurn u' = s.setTurn u' := rfl

@[simp] theorem State.setTurn_readReg (s : State) (u : Turn) (i : RegIdx) : (s.setTurn u).readReg i = s.readReg i := rfl

@[simp] theorem State.setTurn_pcInProgram (s : State) (u : Turn) : (s.setTurn u).pcInProgram = s.pcInProgram := rfl

@[simp] theorem State.setTurn_drained (s : State) (u : Turn) : (s.setTurn u).drained = s.drained := rfl

/-- Setting the turn to what it is changes nothing. -/
theorem State.setTurn_self {s : State} {u : Turn} (h : s.turn = u) : s.setTurn u = s := by
  subst h; rfl

/-! ### Contexts -/

@[simp] theorem Context.live_bubble : Context.bubble.live = false := rfl

theorem Context.live_iff (c : Context) : c.live = true ↔ c.valid = true ∧ c.flush = false := by
  simp [Context.live]

@[simp] theorem Context.live_flushed (c : Context) : Context.live { c with flush := true } = false := by
  simp [Context.live]

@[simp] theorem Context.live_invalid (c : Context) : Context.live { c with valid := false } = false := by
  simp [Context.live]

end Sys2Proof.Machine
end

