-- ==== Sys2Proof/Laws/Ops.lean ====
section
/-! SUPPORT. What the named operations do, said once: registers, memory, bounds, the abort, outcomes. -/

namespace Sys2Proof.Machine

open Host (Outcome)

/-! ### Registers -/

@[simp] theorem State.readReg_zero (s : State) : s.readReg 0#5 = 0#32 := rfl

theorem State.readReg_congr {s s' : State} (h : s'.regs = s.regs) (i : RegIdx) : s'.readReg i = s.readReg i := by
  simp [State.readReg, h]

theorem regIdx_toNat_ne_zero {i : RegIdx} (h : i ≠ 0) : i.toNat ≠ 0 := fun h' => h (BitVec.eq_of_toNat_eq (by simpa using h'))

/-- Reading after a write: register 0 reads 0, the written register its value, every other register what it held. -/
theorem State.readReg_writeReg (s : State) (i j : RegIdx) (v : Word) :
    (s.writeReg i v).readReg j = if j = 0 then 0 else if j = i then v else s.readReg j := by
  by_cases hj : j = 0
  · simp [hj]
  · have hj0 := regIdx_toNat_ne_zero hj
    have hij : (i.toNat = j.toNat) ↔ j = i := by
      constructor
      · intro h; exact BitVec.eq_of_toNat_eq h.symm
      · intro h; rw [h]
    simp only [State.readReg, hj, if_false, State.writeReg_regs]
    rw [Vector.getElem_set_ne _ _ (by omega)]
    rw [Vector.getElem_set]
    simp [hij]

@[simp] theorem State.writeReg_regs_zero (s : State) (i : RegIdx) (v : Word) : (s.writeReg i v).regs[0] = 0 := by
  simp [State.writeReg]

/-! ### Memory -/

/-- Reading after a write gives the value written there, and elsewhere what was there, in canonical memories. -/
theorem Memory.wfFrom_mono {lo lo' : Nat} (h : lo' ≤ lo) : ∀ {m : Memory}, wfFrom lo m = true → wfFrom lo' m = true
  | [], _ => rfl
  | (k, v) :: m, hm => by
    simp only [wfFrom, Bool.and_eq_true, decide_eq_true_eq] at hm ⊢
    exact ⟨⟨⟨by omega, hm.1.1.2⟩, hm.1.2⟩, hm.2⟩

/-- Below its first address a canonical memory reads as its reset contents. -/
theorem Memory.read_below {lo a : Nat} (h : a < lo) : ∀ {m : Memory}, wfFrom lo m = true → read m a = Config.unlistedWord
  | [], _ => rfl
  | (k, v) :: m, hm => by
    simp only [wfFrom, Bool.and_eq_true, decide_eq_true_eq] at hm
    have hk : k ≠ a := by omega
    simp only [read, hk, if_false]
    exact read_below (by omega) hm.2

theorem Memory.read_write_from {lo a b : Nat} {v : Word} :
    ∀ {m : Memory}, wfFrom lo m = true → read (write m a v) b = if b = a then v else read m b
  | [], _ => by
    by_cases hv : v = Config.unlistedWord <;> by_cases hb : b = a
    · simp [write, read, hv]
    · simp [write, read, hv]
    · simp [write, read, hv, hb]
    · have : a ≠ b := fun h => hb h.symm
      simp [write, read, hv, hb, this]
  | (k, w) :: m, hm => by
    have hm' := hm
    simp only [wfFrom, Bool.and_eq_true, decide_eq_true_eq] at hm
    have ih := @read_write_from (k + 1) a b v m hm.2
    by_cases hak : a < k
    · have hra : read ((k, w) :: m) a = Config.unlistedWord := by
        have hk : k ≠ a := by omega
        simp only [read, hk, if_false]
        exact read_below (by omega) hm.2
      by_cases hv : v = Config.unlistedWord
      · by_cases hb : b = a
        · simp [write, hak, hv, hb, hra]
        · simp [write, hak, hv, hb]
      · by_cases hb : b = a
        · simp [write, hak, hv, hb, read]
        · have : a ≠ b := fun h => hb h.symm
          simp [write, hak, hv, hb, read, this]
    · by_cases hka : a = k
      · subst hka
        by_cases hv : v = Config.unlistedWord
        · by_cases hb : b = a
          · subst hb
            simp [write, hv, read_below (Nat.lt_succ_self b) hm.2]
          · have : a ≠ b := fun h => hb h.symm
            simp [write, hv, hb, read, this]
        · by_cases hb : b = a
          · simp [write, hv, hb, read]
          · have : a ≠ b := fun h => hb h.symm
            simp [write, hv, hb, read, this]
      · simp only [write, hak, hka, if_false, read]
        by_cases hkb : k = b
        · have : ¬ b = a := by omega
          simp [hkb, this]
        · simp [hkb, ih]

theorem Memory.write_wfFrom {lo a : Nat} {v : Word} (hlo : lo ≤ a) (ha : a < Config.memWords) :
    ∀ {m : Memory}, wfFrom lo m = true → wfFrom lo (write m a v) = true
  | [], _ => by
    by_cases hv : v = Config.unlistedWord <;> simp_all [write, wfFrom]
  | (k, w) :: m, hm => by
    have hm' := hm
    simp only [wfFrom, Bool.and_eq_true, decide_eq_true_eq] at hm
    by_cases hak : a < k
    · by_cases hv : v = Config.unlistedWord
      · simpa [write, hak, hv] using hm'
      · simp only [write, hak, hv, if_true, if_false, wfFrom, Bool.and_eq_true, decide_eq_true_eq]
        exact ⟨⟨⟨hlo, ha⟩, hv⟩, ⟨⟨by omega, hm.1.1.2⟩, hm.1.2⟩, hm.2⟩
    · by_cases hka : a = k
      · by_cases hv : v = Config.unlistedWord
        · simp only [write, hka, hv, if_true, lt_irrefl, if_false]
          exact wfFrom_mono (by omega) hm.2
        · simp only [write, hka, hv, if_true, if_false, wfFrom, Bool.and_eq_true, decide_eq_true_eq,
            lt_irrefl]
          subst hka
          exact ⟨⟨⟨hlo, ha⟩, hv⟩, hm.2⟩
      · simp only [write, hak, hka, if_false, wfFrom, Bool.and_eq_true, decide_eq_true_eq]
        exact ⟨hm.1, write_wfFrom (by omega) ha hm.2⟩

/-- A read after a write, in a canonical memory. -/
theorem Memory.read_write {m : Memory} (hm : m.wf = true) (a b : Nat) (v : Word) :
    read (write m a v) b = if b = a then v else read m b := read_write_from hm

/-- A write inside memory keeps the canonical form. -/
theorem Memory.write_wf {m : Memory} (hm : m.wf = true) {a : Nat} (ha : a < Config.memWords) (v : Word) :
    (write m a v).wf = true := write_wfFrom (Nat.zero_le a) ha hm

theorem State.reset_mem_wf : Memory.wf State.reset.mem = true := rfl

/-- In a canonical memory, the words decide the memory: two canonical memories that read alike are equal. -/
theorem Memory.ext_from {lo : Nat} : ∀ {m m' : Memory}, wfFrom lo m = true → wfFrom lo m' = true →
    (∀ a, read m a = read m' a) → m = m'
  | [], [], _, _, _ => rfl
  | [], (k, v) :: m', _, h', h => by
    have := h k
    simp only [wfFrom, Bool.and_eq_true, decide_eq_true_eq] at h'
    simp only [read, if_true] at this
    exact absurd this.symm h'.1.2
  | (k, v) :: m, [], h', _, h => by
    have := h k
    simp only [wfFrom, Bool.and_eq_true, decide_eq_true_eq] at h'
    simp only [read, if_true] at this
    exact absurd this h'.1.2
  | (k, v) :: m, (k', v') :: m', hm, hm', h => by
    simp only [wfFrom, Bool.and_eq_true, decide_eq_true_eq] at hm hm'
    have hk : k = k' := by
      rcases Nat.lt_trichotomy k k' with hlt | heq | hgt
      · have := h k
        have hne : k' ≠ k := by omega
        simp only [read, if_true, hne, if_false] at this
        rw [read_below (by omega) hm'.2] at this
        exact absurd this hm.1.2
      · exact heq
      · have := h k'
        have hne : k ≠ k' := by omega
        simp only [read, if_true, hne, if_false] at this
        rw [read_below (by omega) hm.2] at this
        exact absurd this.symm hm'.1.2
    subst hk
    have hv : v = v' := by simpa [read] using h k
    subst hv
    refine congrArg _ (ext_from hm.2 hm'.2 fun a => ?_)
    by_cases ha : k = a
    · rw [read_below (by omega) hm.2, read_below (by omega) hm'.2]
    · have := h a
      simpa [read, ha] using this

/-! ### Bounds -/

theorem inBounds_iff (a : Word) : inBounds a = true ↔ a.toNat < 2048 := by
  simp [inBounds]

theorem State.memRead_in {s : State} {a : Word} (h : inBounds a = true) :
    s.memRead a = some (Memory.read s.mem a.toNat) := by
  simp [State.memRead, h]

theorem State.memRead_out {s : State} {a : Word} (h : inBounds a = false) : s.memRead a = none := by
  simp [State.memRead, h]

theorem State.memWrite_in {s : State} {a : Word} (v : Word) (h : inBounds a = true) :
    s.memWrite a v = some (s.storeWord a v) := by
  simp [State.memWrite, h]

theorem State.memWrite_out {s : State} {a : Word} (v : Word) (h : inBounds a = false) : s.memWrite a v = none := by
  simp [State.memWrite, h]

/-! ### Outcomes -/

@[simp] theorem andThen_next (s : State) (f : State → Outcome State Fault Refusal) : andThen (.next s) f = f s := rfl

@[simp] theorem andThen_fault (r : Fault) (f : State → Outcome State Fault Refusal) : andThen (.fault r) f = .fault r := rfl

@[simp] theorem andThen_refused (r : Refusal) (f : State → Outcome State Fault Refusal) :
    andThen (.refused r) f = .refused r := rfl

/-- A sequence answers next only through a next state of its first part. -/
theorem andThen_eq_next {o : Outcome State Fault Refusal} {f : State → Outcome State Fault Refusal} {s' : State}
    (h : andThen o f = .next s') : ∃ s, o = .next s ∧ f s = .next s' := by
  cases o with
  | next s => exact ⟨s, rfl, h⟩
  | fault r => cases h
  | refused r => cases h

end Sys2Proof.Machine
end

