-- ==== Sys2Proof/Laws/Exec.lean ====
section
/-! SUPPORT. What an instruction can do in each of its turns, said once for all of them. -/

namespace Sys2Proof.Machine

open Host (Outcome)

/-! ### The shared turns -/

theorem State.valueTurns_decode {s : State} (h : s.turn = .decode) (ra rb rc : RegIdx) (f : Context → Word) :
    s.valueTurns ra rb rc f = s.latchOperands rb rc := by
  simp [State.valueTurns, h]

theorem State.valueTurns_execute {s : State} (h : s.turn = .execute) (ra rb rc : RegIdx) (f : Context → Word) :
    s.valueTurns ra rb rc f = s.setResult (f s.E) := by
  simp [State.valueTurns, h]

theorem State.valueTurns_memory {s : State} (h : s.turn = .memory) (ra rb rc : RegIdx) (f : Context → Word) :
    s.valueTurns ra rb rc f = s := by
  simp [State.valueTurns, h]

theorem State.valueTurns_writeback {s : State} (h : s.turn = .writeback) (ra rb rc : RegIdx) (f : Context → Word) :
    s.valueTurns ra rb rc f = s.writeReg ra s.W.result := by
  simp [State.valueTurns, h]

theorem State.loadTurn_in {s : State} (h : inBounds s.M.ea = true) :
    s.loadTurn = s.setLoaded (Memory.read s.mem s.M.ea.toNat) := by
  simp [State.loadTurn, State.memRead_in h]

theorem State.loadTurn_out {s : State} (h : inBounds s.M.ea = false) : s.loadTurn = s.raiseAbort abortLoad := by
  simp [State.loadTurn, State.memRead_out h]

theorem State.storeTurn_in {s : State} (ra : RegIdx) (h : inBounds s.M.ea = true) :
    s.storeTurn ra = s.storeWord s.M.ea (s.readReg ra) := by
  simp [State.storeTurn, State.memWrite_in _ h]

theorem State.storeTurn_out {s : State} (ra : RegIdx) (h : inBounds s.M.ea = false) :
    s.storeTurn ra = s.raiseAbort abortStore := by
  simp [State.storeTurn, State.memWrite_out _ h]

/-! ### The shifts are the shifts of bit vectors -/

theorem shiftLeft_eq (v : Word) (n : Shamt) : shiftLeft v n = v <<< n.toNat := by
  unfold shiftLeft
  split
  · apply BitVec.eq_of_toNat_eq
    simp [Nat.shiftLeft_eq]
  · rw [BitVec.shiftLeft_eq_zero (by omega)]; rfl

theorem shiftRight_eq (v : Word) (n : Shamt) : shiftRight v n = v >>> n.toNat := by
  unfold shiftRight
  split
  · apply BitVec.eq_of_toNat_eq
    have : v.toNat / 2 ^ n.toNat < 2 ^ 32 := lt_of_le_of_lt (Nat.div_le_self _ _) v.isLt
    simpa [Nat.shiftRight_eq_div_pow] using this
  · rw [BitVec.ushiftRight_eq_zero (by omega)]; rfl

/-! ### The effects of a turn -/

/-- Out of any turn, an instruction does nothing. -/
theorem exec_rest (i : Instr) {s : State} (h : s.turn = .rest) : exec i s = .next s := by
  cases i <;> simp [exec, execAdd, execSub, execMul, execMovi, execJeq, execAnd, execXori, execJmp, execLsl, execLsr, execMovr,
    execMovm, execUndef, State.valueTurns, h]

/-- In its Decode turn, an instruction latches fields and operands in D and nothing else. -/
theorem exec_decode_cases (i : Instr) {s : State} (h : s.turn = .decode) :
    ∃ rb rc, exec i s = .next (s.latchOperands rb rc) := by
  cases i <;> simp only [exec, execAdd, execSub, execMul, execMovi, execJeq, execAnd, execXori, execJmp, execLsl, execLsr,
    execMovr, execMovm, execUndef, State.valueTurns, h] <;> exact ⟨_, _, rfl⟩

/-- What an Execute turn can do: write the result or the address of the context in E, mark D, mark F and D and redirect, or
nothing. -/
def ExecuteEffect (s s' : State) : Prop :=
  (∃ v, s' = s.setResult v) ∨ (∃ imm, s' = s.setEa imm) ∨ s' = s ∨ s' = s.markD ∨ ∃ a, s' = s.markF.markD.redirect a

theorem State.jeqTurn_effect (s : State) (ra rb : RegIdx) (imm : Word) : ExecuteEffect s (s.jeqTurn ra rb imm) := by
  unfold State.jeqTurn ExecuteEffect
  split
  · split
    · simp
    · split
      · exact .inr (.inr (.inr (.inr ⟨_, rfl⟩)))
      · simp
  · simp

theorem State.jmpTurn_effect (s : State) (addr : Addr) : ExecuteEffect s (s.jmpTurn addr) := by
  unfold State.jmpTurn ExecuteEffect
  split
  · simp
  · split
    · exact .inr (.inr (.inr (.inr ⟨_, rfl⟩)))
    · simp

/-- The effect does not depend on whose turn the state says it is. -/
theorem ExecuteEffect.of_setTurn {s s' : State} {u : Turn} (h : ExecuteEffect (s.setTurn u) s') :
    ∃ s₁, ExecuteEffect s s₁ ∧ s' = s₁.setTurn u := by
  rcases h with ⟨v, rfl⟩ | ⟨imm, rfl⟩ | rfl | rfl | ⟨a, rfl⟩
  · exact ⟨s.setResult v, .inl ⟨v, rfl⟩, rfl⟩
  · exact ⟨s.setEa imm, .inr (.inl ⟨imm, rfl⟩), rfl⟩
  · exact ⟨s, .inr (.inr (.inl rfl)), rfl⟩
  · exact ⟨s.markD, .inr (.inr (.inr (.inl rfl))), rfl⟩
  · exact ⟨s.markF.markD.redirect a, .inr (.inr (.inr (.inr ⟨a, rfl⟩))), rfl⟩

theorem exec_execute_cases (i : Instr) {s : State} (h : s.turn = .execute) :
    ∃ s', exec i s = .next s' ∧ ExecuteEffect s s' := by
  cases i <;> simp only [exec, execAdd, execSub, execMul, execMovi, execJeq, execAnd, execXori, execJmp, execLsl, execLsr,
    execMovr, execMovm, execUndef, State.valueTurns, h]
  case jeq => exact ⟨_, rfl, State.jeqTurn_effect ..⟩
  case jmp => exact ⟨_, rfl, State.jmpTurn_effect ..⟩
  case movr => exact ⟨_, rfl, .inr (.inl ⟨_, rfl⟩)⟩
  case movm => exact ⟨_, rfl, .inr (.inl ⟨_, rfl⟩)⟩
  case undef => exact ⟨_, rfl, .inr (.inl ⟨_, rfl⟩)⟩
  all_goals exact ⟨_, rfl, .inl ⟨_, rfl⟩⟩

/-- What a Memory turn can do: nothing, a load or a store inside memory, or the abort of an access outside it. -/
def MemoryEffect (s s' : State) : Prop :=
  s' = s ∨
  (inBounds s.M.ea = true ∧ s' = s.setLoaded (Memory.read s.mem s.M.ea.toNat)) ∨
  (inBounds s.M.ea = true ∧ ∃ v, s' = s.storeWord s.M.ea v) ∨
  (inBounds s.M.ea = false ∧ ∃ k, (k = abortLoad ∨ k = abortStore) ∧ s' = s.raiseAbort k)

theorem State.loadTurn_effect (s : State) : MemoryEffect s s.loadTurn := by
  by_cases h : inBounds s.M.ea = true
  · exact .inr (.inl ⟨h, State.loadTurn_in h⟩)
  · simp only [Bool.not_eq_true] at h
    exact .inr (.inr (.inr ⟨h, _, .inl rfl, State.loadTurn_out h⟩))

theorem State.storeTurn_effect (s : State) (ra : RegIdx) : MemoryEffect s (s.storeTurn ra) := by
  by_cases h : inBounds s.M.ea = true
  · exact .inr (.inr (.inl ⟨h, _, State.storeTurn_in ra h⟩))
  · simp only [Bool.not_eq_true] at h
    exact .inr (.inr (.inr ⟨h, _, .inr rfl, State.storeTurn_out ra h⟩))

/-- The effect does not depend on whose turn the state says it is. -/
theorem MemoryEffect.of_setTurn {s s' : State} {u : Turn} (h : MemoryEffect (s.setTurn u) s') :
    ∃ s₁, MemoryEffect s s₁ ∧ s' = s₁.setTurn u := by
  rcases h with rfl | ⟨hb, rfl⟩ | ⟨hb, v, rfl⟩ | ⟨hb, k, hk, rfl⟩
  · exact ⟨s, .inl rfl, rfl⟩
  · exact ⟨s.setLoaded (Memory.read s.mem s.M.ea.toNat), .inr (.inl ⟨hb, rfl⟩), rfl⟩
  · exact ⟨s.storeWord s.M.ea v, .inr (.inr (.inl ⟨hb, v, rfl⟩)), rfl⟩
  · exact ⟨s.raiseAbort k, .inr (.inr (.inr ⟨hb, k, hk, rfl⟩)), rfl⟩

theorem exec_memory_cases (i : Instr) {s : State} (h : s.turn = .memory) :
    ∃ s', exec i s = .next s' ∧ MemoryEffect s s' := by
  cases i <;> simp only [exec, execAdd, execSub, execMul, execMovi, execJeq, execAnd, execXori, execJmp, execLsl, execLsr,
    execMovr, execMovm, execUndef, State.valueTurns, h]
  case movr => exact ⟨_, rfl, State.loadTurn_effect _⟩
  case movm => exact ⟨_, rfl, State.storeTurn_effect ..⟩
  all_goals exact ⟨_, rfl, .inl rfl⟩

/-- In its Write-back turn, an instruction writes the result of the context in W to one register, or does nothing. -/
theorem exec_writeback_cases (i : Instr) {s : State} (h : s.turn = .writeback) :
    exec i s = .next s ∨ ∃ ra, exec i s = .next (s.writeReg ra s.W.result) := by
  cases i <;> simp only [exec, execAdd, execSub, execMul, execMovi, execJeq, execAnd, execXori, execJmp, execLsl, execLsr,
    execMovr, execMovm, execUndef, State.valueTurns, h]
  case jeq => exact .inl trivial
  case jmp => exact .inl trivial
  case movm => exact .inl trivial
  case undef => exact .inl trivial
  all_goals exact .inr ⟨_, rfl⟩

end Sys2Proof.Machine
end

