-- ==== Sys2Proof/Laws/Net.lean ====
section
/-! SUPPORT. How the functions of the one-at-a-time reading fit together. -/

namespace Sys2Proof.Machine

/-- A value computed in Execute is what its instruction writes. -/
theorem netWrite_of_netValue {i : Instr} {s : State} {p : RegIdx × Word} (h : netValue i s = some p) :
    netWrite i s = some p := by
  cases i <;> first | exact h | cases h

/-- What an instruction writes, it either computed in Execute or loaded from inside memory. -/
theorem netWrite_cases {i : Instr} {s : State} {r : RegIdx} {v : Word} (h : netWrite i s = some (r, v)) :
    netValue i s = some (r, v) ∨
      ∃ rb imm, i = .movr r rb imm ∧ inBounds (s.readReg rb + imm) = true ∧
        v = Memory.read s.mem (s.readReg rb + imm).toNat := by
  cases i with
  | movr ra rb imm =>
    simp only [netWrite] at h
    split at h
    · rename_i hb
      cases h
      exact .inr ⟨rb, imm, rfl, hb, rfl⟩
    · cases h
  | _ => exact .inl h

/-- An instruction that writes a register has that write as its whole net effect. -/
theorem netEffect_of_netWrite {i : Instr} {s : State} {r : RegIdx} {v : Word} (h : netWrite i s = some (r, v)) :
    netEffect i s = s.writeReg r v := by
  rcases netWrite_cases h with h | ⟨rb, imm, rfl, -, rfl⟩
  · cases i <;> first | (cases h; done) | (simp only [netEffect, h])
  · rfl

/-- An instruction that writes a register makes no access outside memory. -/
theorem inBounds_of_netWrite {i : Instr} {s : State} {p : RegIdx × Word} (h : netWrite i s = some p) :
    ∀ a, netAddress i s = some a → inBounds a = true := by
  obtain ⟨r, v⟩ := p
  rcases netWrite_cases h with h | ⟨rb, imm, rfl, hb, -⟩
  · cases i <;> first | (intro a ha; cases ha; done) | cases h
  · rintro a ⟨⟩
    exact hb

end Sys2Proof.Machine
end

