-- ==== Sys2Proof/Laws/PerInstr.lean ====
section
/-! SUPPORT. Per-instruction families: statements about an instruction as syntax, one lemma per constructor. -/

namespace Sys2Proof.Laws.OpcodeField

open Sys2Proof

/-- The word of a well-formed instruction carries the instruction's opcode in its opcode field (R101, R110). -/
def Statement (i : Instr) : Prop := i.wf = true → (decodeFields (encode i)).op = i.opcode

theorem add (ra rb rc : RegIdx) : Statement (.add ra rb rc) := by
  intro _; exact (congrArg fieldOp (encoder_requestR rfl ra rb rc)).trans (fieldOp_packR ..)

theorem sub (ra rb rc : RegIdx) : Statement (.sub ra rb rc) := by
  intro _; exact (congrArg fieldOp (encoder_requestR rfl ra rb rc)).trans (fieldOp_packR ..)

theorem mul (ra rb rc : RegIdx) : Statement (.mul ra rb rc) := by
  intro _; exact (congrArg fieldOp (encoder_requestR rfl ra rb rc)).trans (fieldOp_packR ..)

theorem movi (ra : RegIdx) (imm : Word) : Statement (.movi ra imm) := by
  intro h; exact (congrArg fieldOp (encoder_requestI rfl ra 0 h)).trans (fieldOp_packI ..)

theorem jeq (ra rb : RegIdx) (imm : Word) : Statement (.jeq ra rb imm) := by
  intro h; exact (congrArg fieldOp (encoder_requestI rfl ra rb h)).trans (fieldOp_packI ..)

theorem and (ra rb rc : RegIdx) : Statement (.and ra rb rc) := by
  intro _; exact (congrArg fieldOp (encoder_requestR rfl ra rb rc)).trans (fieldOp_packR ..)

theorem xori (ra rb : RegIdx) (imm : Word) : Statement (.xori ra rb imm) := by
  intro h; exact (congrArg fieldOp (encoder_requestI rfl ra rb h)).trans (fieldOp_packI ..)

theorem jmp (addr : Addr) : Statement (.jmp addr) := by
  intro _; exact (congrArg fieldOp (encoder_requestJ rfl addr)).trans (fieldOp_packJ ..)

theorem lsl (ra rb : RegIdx) (shamt : Shamt) : Statement (.lsl ra rb shamt) := by
  intro _; exact (congrArg fieldOp (encoder_requestS rfl ra rb shamt)).trans (fieldOp_packS ..)

theorem lsr (ra rb : RegIdx) (shamt : Shamt) : Statement (.lsr ra rb shamt) := by
  intro _; exact (congrArg fieldOp (encoder_requestS rfl ra rb shamt)).trans (fieldOp_packS ..)

theorem movr (ra rb : RegIdx) (imm : Word) : Statement (.movr ra rb imm) := by
  intro h; exact (congrArg fieldOp (encoder_requestI rfl ra rb h)).trans (fieldOp_packI ..)

theorem movm (ra rb : RegIdx) (imm : Word) : Statement (.movm ra rb imm) := by
  intro h; exact (congrArg fieldOp (encoder_requestI rfl ra rb h)).trans (fieldOp_packI ..)

theorem undef (op : Opcode) (rest : Addr) : Statement (.undef op rest) := by
  intro _; exact fieldOp_packJ ..

end Sys2Proof.Laws.OpcodeField
end

