-- ==== Sys2Proof/Laws/Step.lean ====
section
/-! SUPPORT. The shape of an advance: what it does on an odd tick, what on an even one, and what each phase can do. -/

namespace Sys2Proof.Machine

open Host (Outcome)

theorem step_of_not_running {s : State} (h : s.running = false) : step s = .next s := by
  simp [step, h]

theorem step_of_running {s : State} (h : s.running = true) : step s = advance s := by
  simp [step, h]

/-! ### The tick and its gates -/

@[simp] theorem State.beginTick_regs (s : State) : s.beginTick.regs = s.regs := by simp [State.beginTick]

@[simp] theorem State.beginTick_pc (s : State) : s.beginTick.pc = s.pc := by simp [State.beginTick]

@[simp] theorem State.beginTick_mem (s : State) : s.beginTick.mem = s.mem := by simp [State.beginTick]

@[simp] theorem State.beginTick_F (s : State) : s.beginTick.F = s.F := by simp [State.beginTick]

@[simp] theorem State.beginTick_M (s : State) : s.beginTick.M = s.E := by simp [State.beginTick]

@[simp] theorem State.beginTick_W (s : State) : s.beginTick.W = s.M := by simp [State.beginTick]

@[simp] theorem State.beginTick_t (s : State) : s.beginTick.t = s.t + 1 := by simp [State.beginTick]

@[simp] theorem State.beginTick_n (s : State) : s.beginTick.n = s.n := by simp [State.beginTick]

@[simp] theorem State.beginTick_running (s : State) : s.beginTick.running = s.running := by simp [State.beginTick]

@[simp] theorem State.beginTick_halted (s : State) : s.beginTick.halted = s.halted := by simp [State.beginTick]

@[simp] theorem State.beginTick_abort (s : State) : s.beginTick.abort = s.abort := by simp [State.beginTick]

@[simp] theorem State.beginTick_abortKind (s : State) : s.beginTick.abortKind = s.abortKind := by simp [State.beginTick]

@[simp] theorem State.beginTick_abortAddr (s : State) : s.beginTick.abortAddr = s.abortAddr := by simp [State.beginTick]

@[simp] theorem State.beginTick_abortPc (s : State) : s.beginTick.abortPc = s.abortPc := by simp [State.beginTick]

@[simp] theorem State.beginTick_turn (s : State) : s.beginTick.turn = s.turn := by simp [State.beginTick]

/-- An even tick count is followed by an odd tick, and the other way round. -/
theorem State.evenTick_succ {s s' : State} (h : s'.t = s.t + 1) : s'.evenTick = !s.evenTick := by
  simp only [State.evenTick, h]
  rcases Nat.mod_two_eq_zero_or_one s.t with h0 | h0
  · have : (s.t + 1) % 2 = 1 := by omega
    rw [h0, this]; rfl
  · have : (s.t + 1) % 2 = 0 := by omega
    rw [h0, this]; rfl

@[simp] theorem State.beginTick_evenTick (s : State) : s.beginTick.evenTick = !s.evenTick :=
  State.evenTick_succ (State.beginTick_t s)

theorem State.beginTick_E (s : State) : s.beginTick.E = if s.evenTick then s.E else s.D := by
  have h : s.tick.evenTick = !s.evenTick := State.evenTick_succ rfl
  simp only [State.beginTick, State.copies_E, h, State.tick_D, State.tick_E]
  cases s.evenTick <;> rfl

theorem State.beginTick_D (s : State) : s.beginTick.D = if s.evenTick then s.D else s.F := by
  have h : s.tick.evenTick = !s.evenTick := State.evenTick_succ rfl
  simp only [State.beginTick, State.copies_D, h, State.tick_D, State.tick_F]
  cases s.evenTick <;> rfl

/-! ### A turn given to an instruction -/

theorem State.giveTurn_next {s s' : State} {turn : Turn} {i : Instr} (h : exec i (s.setTurn turn) = .next s') :
    s.giveTurn turn i = .next (s'.setTurn .rest) := by
  simp [State.giveTurn, h]

/-- Write-back: one register of the file may change, nothing else but the turn. -/
theorem State.writebackPhase_cases (s : State) :
    s.writebackPhase = .next s ∨ s.writebackPhase = .next (s.setTurn .rest) ∨
      ∃ ra, s.writebackPhase = .next ((s.writeReg ra s.W.result).setTurn .rest) := by
  unfold State.writebackPhase
  split
  · rcases exec_writeback_cases s.W.dec.instr (s := s.setTurn .writeback) rfl with h | ⟨ra, h⟩
    · exact .inr (.inl ((State.giveTurn_next h).trans rfl))
    · exact .inr (.inr ⟨ra, ((State.giveTurn_next h).trans rfl).trans rfl⟩)
  · exact .inl rfl

/-- Memory: a load, a store or an abort, and the turn. -/
theorem State.memoryPhase_cases (s : State) :
    s.memoryPhase = .next s ∨ ∃ s', s.memoryPhase = .next (s'.setTurn .rest) ∧ MemoryEffect s s' := by
  unfold State.memoryPhase
  split
  · obtain ⟨s', h, e⟩ := exec_memory_cases s.M.dec.instr (s := s.setTurn .memory) rfl
    obtain ⟨s₁, e₁, rfl⟩ := e.of_setTurn
    exact .inr ⟨s₁, (State.giveTurn_next h).trans rfl, e₁⟩
  · exact .inl rfl

/-- Execute: the context in E, the marks of F and D, pc, and the turn. -/
theorem State.executePhase_cases (s : State) :
    s.executePhase = .next s ∨ ∃ s', s.executePhase = .next (s'.setTurn .rest) ∧ ExecuteEffect s s' := by
  unfold State.executePhase
  split
  · obtain ⟨s', h, e⟩ := exec_execute_cases s.E.dec.instr (s := s.setTurn .execute) rfl
    obtain ⟨s₁, e₁, rfl⟩ := e.of_setTurn
    exact .inr ⟨s₁, (State.giveTurn_next h).trans rfl, e₁⟩
  · exact .inl rfl

/-- Decode: the context in D, and the turn. -/
theorem State.decodePhase_cases (s : State) :
    s.decodePhase = .next s ∨ ∃ rb rc, s.decodePhase = .next ((s.latchOperands rb rc).setTurn .rest) := by
  unfold State.decodePhase
  split
  · obtain ⟨rb, rc, h⟩ := exec_decode_cases (decode s.D.word) (s := s.setTurn .decode) rfl
    exact .inr ⟨rb, rc, ((State.giveTurn_next h).trans rfl).trans rfl⟩
  · exact .inl rfl

/-! ### Fetch -/

theorem State.fetchPhase_even {s : State} (h : s.evenTick = true) : s.fetchPhase = .next s := by
  simp [State.fetchPhase, h]

theorem State.fetchPhase_fetch {s : State} (h : s.evenTick = false) (hp : s.pcInProgram = true) (hb : inBounds s.pc = true) :
    s.fetchPhase = .next (s.fetchWord (Memory.read s.mem s.pc.toNat)) := by
  simp [State.fetchPhase, h, hp, State.memRead_in hb]

theorem State.fetchPhase_bubble {s : State} (h : s.evenTick = false) (hp : s.pcInProgram = false) :
    s.fetchPhase = .next s.fetchBubble := by
  simp [State.fetchPhase, h, hp]

/-- With a count of at most 2048 no fetch leaves memory. -/
theorem State.inBounds_of_pcInProgram {s : State} (hn : s.n.toNat ≤ Config.maxCount) (hp : s.pcInProgram = true) :
    inBounds s.pc = true := by
  simp only [State.pcInProgram, decide_eq_true_eq] at hp
  simp only [inBounds, decide_eq_true_eq]
  exact lt_of_lt_of_le hp hn

/-! ### The two kinds of tick -/

/-- An odd tick (the count before it is even): Write-back, then Fetch and the halt test. -/
theorem advance_odd {s : State} (h : s.evenTick = true) :
    advance s = andThen s.beginTick.writebackPhase fun s₁ =>
      if s₁.abort then .next s₁ else andThen s₁.fetchPhase fun s₂ => .next s₂.haltTest := by
  have hb : s.beginTick.evenTick = false := by simp [h]
  have key : ∀ s₁ : State, s₁.evenTick = false →
      (andThen s₁.memoryPhase fun s₂ => s₂.afterMemory) =
        if s₁.abort then .next s₁ else andThen s₁.fetchPhase fun s₂ => .next s₂.haltTest := by
    intro s₁ h₁
    simp [State.memoryPhase, State.memoryActs, h₁, State.afterMemory, State.executePhase, State.executeActs,
      State.decodePhase, State.decodeActs]
  unfold advance
  rcases State.writebackPhase_cases s.beginTick with e | e | ⟨ra, e⟩ <;> rw [e] <;> simp only [andThen_next] <;> apply key
  · exact hb
  · simpa using h
  · simpa using h

/-- An even tick (the count before it is odd): Memory, then, unless the run has aborted, Execute, Decode and the halt test. -/
theorem advance_even {s : State} (h : s.evenTick = false) :
    advance s = andThen s.beginTick.memoryPhase fun s₁ =>
      if s₁.abort then .next s₁
      else andThen s₁.executePhase fun s₂ => andThen s₂.decodePhase fun s₃ => .next s₃.haltTest := by
  have hb : s.beginTick.evenTick = true := by simp [h]
  have hw : s.beginTick.writebackPhase = .next s.beginTick := by
    simp [State.writebackPhase, State.writebackActs, hb]
  have tail : ∀ s₂ : State, s₂.evenTick = true →
      (andThen s₂.decodePhase fun s₃ => andThen s₃.fetchPhase fun s₄ => .next s₄.haltTest) =
        andThen s₂.decodePhase fun s₃ => .next s₃.haltTest := by
    intro s₂ h₂
    rcases State.decodePhase_cases s₂ with e | ⟨rb, rc, e⟩ <;> rw [e] <;> simp only [andThen_next]
    · rw [State.fetchPhase_even h₂, andThen_next]
    · rw [State.fetchPhase_even (by simpa using h₂), andThen_next]
  have mid : ∀ s₁ : State, s₁.evenTick = true →
      s₁.afterMemory = if s₁.abort then .next s₁
        else andThen s₁.executePhase fun s₂ => andThen s₂.decodePhase fun s₃ => .next s₃.haltTest := by
    intro s₁ h₁
    unfold State.afterMemory
    split
    · rfl
    · rcases State.executePhase_cases s₁ with e | ⟨s', e, he⟩ <;> rw [e] <;> simp only [andThen_next]
      · exact tail s₁ h₁
      · apply tail
        rcases he with ⟨v, rfl⟩ | ⟨imm, rfl⟩ | rfl | rfl | ⟨a, rfl⟩ <;> simpa using h₁
  unfold advance
  rw [hw]
  simp only [andThen_next]
  rcases State.memoryPhase_cases s.beginTick with e | ⟨s', e, he⟩ <;> rw [e] <;> simp only [andThen_next]
  · exact mid _ hb
  · apply mid
    rcases he with rfl | ⟨_, rfl⟩ | ⟨_, v, rfl⟩ | ⟨_, k, _, rfl⟩ <;> simpa using h

/-! ### Runs -/

@[simp] theorem runTicks_zero (s : State) : runTicks 0 s = .next s := rfl

theorem runTicks_succ (k : Nat) (s : State) : runTicks (k + 1) s = andThen (step s) (runTicks k) := by
  have h : ∀ o : Outcome State Fault Refusal, step s = o → runTicks (k + 1) s = andThen o (runTicks k) := by
    intro o ho
    have hc : core.step s = o := ho
    simp only [runTicks, Host.Core.run, hc]
    cases o <;> rfl
  exact h _ rfl

/-- A machine that is not running stays as it is. -/
theorem runTicks_of_not_running {s : State} (h : s.running = false) : ∀ k, runTicks k s = .next s
  | 0 => rfl
  | k + 1 => by rw [runTicks_succ, step_of_not_running h, andThen_next, runTicks_of_not_running h k]

end Sys2Proof.Machine
end

