-- ==== Sys2Proof/Tests/Slice0.lean ====
section
/-! SUPPORT. Tests: expected values are those of spec file 95 (parts 2 to 5) and of the field layouts of file 30; and a witness for
the hypotheses of each statement. -/

namespace Sys2Proof.Tests

open Sys2Proof Sys2Proof.Machine Host

/-! ### Small states -/

/-- A register file with some registers seeded. -/
def seeded : List (RegIdx × Word) → Vector Word 32
  | [] => Vector.replicate 32 0
  | (i, v) :: l => (seeded l).set i.toNat v i.isLt

/-- A live context with own pc 1 whose fields have been decoded. -/
def ctx (w : Word) : Context :=
  { Context.bubble with valid := true, word := w, pc := 1, dec := decodeFields w }

/-- The word `w` is about to have its Execute turn, tick 4 of a run, with the word behind it in F. -/
def atExecute (w valB valC : Word) (regs : List (RegIdx × Word)) : State :=
  { State.reset with
    regs := seeded regs, t := 3, running := true, n := 4, pc := 2
    F := { Context.bubble with valid := true, pc := 2 }
    D := { ctx w with valB := valB, valC := valC } }

/-- The word `w` is about to have its Memory turn, tick 6 of a run. -/
def atMemory (w ea : Word) (regs : List (RegIdx × Word)) (mem : Memory) : State :=
  { State.reset with
    regs := seeded regs, mem := mem, t := 5, running := true, n := 4, pc := 3
    E := { ctx w with ea := ea } }

/-- The word `w` is about to have its Write-back turn, tick 7 of a run. -/
def atWriteback (w result : Word) : State :=
  { State.reset with
    regs := seeded [(1, 11), (2, 12), (3, 13)], t := 6, running := true, n := 4, pc := 3
    M := { ctx w with result := result } }

/-- A program about to be fetched at address 0 into an empty pipeline. -/
def fetching (n : BitVec 12) (mem : Memory) (regs : List (RegIdx × Word)) : State :=
  { State.reset with regs := seeded regs, mem := mem, n := n, running := true }

/-- One word in memory, bubbles in every slot. -/
def quiet (running halted abort : Bool) (n : BitVec 12) : State :=
  { State.reset with
    mem := [(0, 5)], n := n, running := running, halted := halted, abort := abort
    abortKind := if abort then 1 else 0, abortAddr := if abort then 2048 else 0, abortPc := if abort then 1 else 0 }

/-- A state in a named turn, its four slots holding the context of a word with own pc 1. -/
def inTurn (turn : Turn) (w ea : Word) (regs : List (RegIdx × Word)) : State :=
  { State.reset with
    regs := seeded regs, turn := turn, D := ctx w, E := { ctx w with ea := ea }, M := { ctx w with ea := ea }, W := ctx w }

/-- What a next state shows, if the outcome is one. -/
def shows {α : Type} (o : Outcome State Fault Refusal) (f : State → α) : Option α :=
  match o with
  | .next s => some (f s)
  | .fault _ => none
  | .refused _ => none

/-! ### WellFormed: what it refuses -/

theorem test_wf_movi : (Instr.movi 1 131072).wf = false ∧ (Instr.movi 1 (-131073)).wf = false := by decide

theorem test_wf_jeq : (Instr.jeq 1 2 131072).wf = false ∧ (Instr.jeq 1 2 (-131073)).wf = false := by decide

theorem test_wf_xori : (Instr.xori 1 2 131072).wf = false ∧ (Instr.xori 1 2 (-131073)).wf = false := by decide

theorem test_wf_movr : (Instr.movr 1 2 131072).wf = false ∧ (Instr.movr 1 2 (-131073)).wf = false := by decide

theorem test_wf_movm : (Instr.movm 1 2 131072).wf = false ∧ (Instr.movm 1 2 (-131073)).wf = false := by decide

theorem test_wf_undef : (Instr.undef 11 0).wf = false := by decide

/-! ### Decoding and encoding: the words of file 95, table 2.1 -/

theorem test_decode_add : decode 0x00886000 = .add 1 2 3 := by decide

theorem test_decode_sub : decode 0x1214C000 = .sub 4 5 6 := by decide

theorem test_decode_mul : decode 0x23A12000 = .mul 7 8 9 := by decide

theorem test_decode_movi : decode 0x31020000 = .movi 2 (-131072) := by decide

theorem test_decode_jeq : decode 0x408BFFFF = .jeq 1 2 (-1) := by decide

theorem test_decode_and : decode 0x552D8000 = .and 10 11 12 := by decide

theorem test_decode_xori : decode 0x619000FF = .xori 3 4 255 := by decide

theorem test_decode_jmp : decode 0x7FFFFFFF = .jmp 268435455 := by decide

theorem test_decode_lsl : decode 0x80881FFF = .lsl 1 2 8191 := by decide

theorem test_decode_lsr : decode 0x9298001F = .lsr 5 6 31 := by decide

theorem test_decode_movr : decode 0xA187FFFC = .movr 3 1 (-4) := by decide

theorem test_decode_movm : decode 0xB1040064 = .movm 2 1 100 := by decide

theorem test_decode_undef : decode 0xC0880005 = .undef 12 0x0880005 ∧ decode 0xFFFFFFFF = .undef 15 0xFFFFFFF := by decide

/-- Field B of MOVI and bits 17:13 of the shifts are not looked at (file 95, 2.5). -/
theorem test_decode_ignored : decode 0x30FC0005 = .movi 1 5 ∧ decode 0x808BE004 = .lsl 1 2 4 := by decide

/-- File 95, table 2.2, first row. -/
theorem test_decode_fields : decodeFields 0x12345678 =
    { op := 1, rA := 4, rB := 13, rC := 2, shamt := 5752, imm := 22136, addr := 0x2345678 } := by decide

theorem test_encode_register : encode (.add 1 2 3) = 0x00886000 ∧ encode (.sub 4 5 6) = 0x1214C000 ∧
    encode (.mul 7 8 9) = 0x23A12000 ∧ encode (.and 10 11 12) = 0x552D8000 := by decide

theorem test_encode_immediate : encode (.movi 1 (-1)) = 0x3083FFFF ∧ encode (.jeq 0 0 (-131072)) = 0x40020000 ∧
    encode (.xori 3 4 (-1)) = 0x6193FFFF ∧ encode (.movr 3 1 (-4)) = 0xA187FFFC ∧
    encode (.movm 31 31 (-1)) = 0xBFFFFFFF := by decide

theorem test_encode_shift_jump : encode (.lsl 1 2 8191) = 0x80881FFF ∧ encode (.lsr 31 31 8191) = 0x9FFC1FFF ∧
    encode (.jmp 2047) = 0x700007FF ∧ encode (.undef 13 0x0800800) = 0xD0800800 := by decide

/-- An encoder request. -/
def ask (op : Opcode) (cls : BitVec 2) (a b c shamt imm addr : Word) : EncodeRequest :=
  { op := op, cls := cls, a := a, b := b, c := c, shamt := shamt, imm := imm, addr := addr }

/-- File 95, table 2.4: operands that do not fit. -/
theorem test_encoder_range : (encoder (ask 0 0 32 0 0 0 0 0)).err = true ∧
    (encoder (ask 0 0 0 0 4294967295 0 0 0)).err = true ∧ (encoder (ask 8 3 1 2 0 8192 0 0)).err = true ∧
    (encoder (ask 3 1 1 0 0 0 131072 0)).err = true ∧ (encoder (ask 3 1 1 0 0 0 (-131073) 0)).err = true ∧
    (encoder (ask 7 2 0 0 0 0 0 268435456)).err = true := by decide

/-- File 95, table 2.4: opcodes without a class, classes that are not the opcode's. -/
theorem test_encoder_class : (encoder (ask 12 0 0 0 0 0 0 0)).err = true ∧ (encoder (ask 0 1 0 0 0 0 0 0)).err = true ∧
    (encoder (ask 8 1 0 0 0 0 4 0)).err = true := by decide

/-- File 95, the requests below table 2.4 that are no errors; field B of class I is packed (2.5). -/
theorem test_encoder_accepts : (encoder (ask 7 2 99 0 0 0 0 5)).err = false ∧
    (encoder (ask 3 1 1 0 0 0 (-131072) 0)).err = false ∧ (encoder (ask 8 3 0 0 0 8191 0 0)).err = false ∧
    (encoder (ask 3 1 1 31 0 0 5 0)).word = 0x30FC0005 := by decide

/-- The host's two entries. -/
theorem test_decodeTableWord : decodeTableWord 32 0x00886000 = some (.add 1 2 3) ∧
    decodeTableWord 8 0x64 = some (.add 0 0 0) ∧ decodeTableWord 40 0 = none := by decide

theorem test_withFetchWord : shows (step (State.reset.withFetchWord 32 0x30800005))
    (fun s => (s.D.live, s.D.dec.instr, s.mem)) = some (true, .movi 1 5, [(0, 0x30800005)]) := by decide

/-! ### One step of each instruction: the rows of file 95, parts 3 to 5 -/

theorem test_add_execute : shows (step (atExecute 0x01844000 0x7FFFFFFF 1 [])) (·.E.result) = some 0x80000000 ∧
    shows (step (atExecute 0x01844000 0xFFFFFFFF 1 [])) (·.E.result) = some 0 := by decide

theorem test_add_writeback : shows (step (atWriteback 0x01844000 0xC)) (·.regs) = some (seeded [(1, 11), (2, 12), (3, 12)]) ∧
    shows (step (atWriteback 0x00044000 0xC)) (·.regs) = some (seeded [(1, 11), (2, 12), (3, 13)]) := by decide

theorem test_sub_execute : shows (step (atExecute 0x1214C000 3 10 [])) (·.E.result) = some 0xFFFFFFF9 := by decide

theorem test_sub_writeback : shows (step (atWriteback 0x1214C000 9)) (·.regs[4]) = some 9 := by decide

theorem test_mul_execute : shows (step (atExecute 0x23A12000 0x12345678 0x9ABCDEF0 [])) (·.E.result) = some 0x242D2080 := by
  decide

theorem test_mul_writeback : shows (step (atWriteback 0x23A12000 9)) (·.regs[7]) = some 9 := by decide

theorem test_movi_execute : shows (step (atExecute 0x31020000 7 8 [])) (·.E.result) = some 0xFFFE0000 := by decide

theorem test_movi_writeback : shows (step (atWriteback 0x3000004D 77)) (·.regs[0]) = some 0 := by decide

/-- JEQ R1, R2 with offsets 2, 1, 0 and unequal registers: the marks of F and D, and pc (vectors 5.1, 5.2). -/
theorem test_jeq_execute :
    shows (step (atExecute 0x40880002 0 0 [(1, 9), (2, 9)])) (fun s => (s.F.flush, s.D.flush, s.pc)) = some (true, true, 3) ∧
    shows (step (atExecute 0x40880001 0 0 [(1, 9), (2, 9)])) (fun s => (s.F.flush, s.D.flush, s.pc)) = some (false, true, 2) ∧
    shows (step (atExecute 0x40880000 0 0 [(1, 9), (2, 9)])) (fun s => (s.F.flush, s.D.flush, s.pc)) = some (false, false, 2) ∧
    shows (step (atExecute 0x40880002 0 0 [(1, 9), (2, 8)])) (fun s => (s.F.flush, s.D.flush, s.pc)) = some (false, false, 2) := by
  decide

theorem test_jeq_writeback : shows (step (atWriteback 0x40880002 9)) (·.regs) = some (seeded [(1, 11), (2, 12), (3, 13)]) := by
  decide

theorem test_and_execute : shows (step (atExecute 0x552D8000 0xFF00FF00 0x0F0F0F0F [])) (·.E.result) = some 0x0F000F00 := by
  decide

theorem test_and_writeback : shows (step (atWriteback 0x552D8000 9)) (·.regs[10]) = some 9 := by decide

theorem test_xori_execute : shows (step (atExecute 0x6193FFFF 0xF0F0 0 [])) (·.E.result) = some 0xFFFF0F0F := by decide

theorem test_xori_writeback : shows (step (atWriteback 0x619000FF 9)) (·.regs[3]) = some 9 := by decide

/-- JMP to own pc, to own pc + 1, elsewhere (vectors 5.3). -/
theorem test_jmp_execute :
    shows (step (atExecute 0x70000001 0 0 [])) (fun s => (s.F.flush, s.D.flush, s.pc)) = some (false, false, 2) ∧
    shows (step (atExecute 0x70000002 0 0 [])) (fun s => (s.F.flush, s.D.flush, s.pc)) = some (false, true, 2) ∧
    shows (step (atExecute 0x70000007 0 0 [])) (fun s => (s.F.flush, s.D.flush, s.pc)) = some (true, true, 7) := by decide

theorem test_jmp_writeback : shows (step (atWriteback 0x70800001 9)) (·.regs) = some (seeded [(1, 11), (2, 12), (3, 13)]) := by
  decide

theorem test_lsl_execute : shows (step (atExecute 0x80880004 0xF000000F 0 [])) (·.E.result) = some 0xF0 ∧
    shows (step (atExecute 0x80880020 0xFFFFFFFF 0 [])) (·.E.result) = some 0 := by decide

theorem test_lsl_writeback : shows (step (atWriteback 0x80880004 9)) (·.regs[1]) = some 9 := by decide

theorem test_lsr_execute : shows (step (atExecute 0x92980001 0xFFFFFFFE 0 [])) (·.E.result) = some 0x7FFFFFFF ∧
    shows (step (atExecute 0x92980021 0xFFFFFFFF 0 [])) (·.E.result) = some 0 := by decide

theorem test_lsr_writeback : shows (step (atWriteback 0x92980001 9)) (·.regs[5]) = some 9 := by decide

theorem test_movr_execute : shows (step (atExecute 0xA187FFFC 20 0 [])) (·.E.ea) = some 16 ∧
    shows (step (atExecute 0xA1840005 0xFFFFFFFF 0 [])) (·.E.ea) = some 4 := by decide

theorem test_movr_memory : shows (step (atMemory 0xA1840064 120 [] [(120, 0xCAFE0001)])) (·.M.result) = some 0xCAFE0001 ∧
    shows (step (atMemory 0xA1800800 2048 [] [])) (fun s => (s.abort, s.abortKind, s.abortAddr, s.abortPc, s.running)) =
      some (true, 1, 2048, 1, false) := by decide

theorem test_movm_memory :
    shows (step (atMemory 0xB1040064 120 [(2, 0x12345678)] [])) (·.mem) = some [(120, 0x12345678)] ∧
    shows (step (atMemory 0xB0040000 300 [(2, 7)] [(300, 0xFFFF)])) (·.mem) = some [] := by decide

theorem test_movm_abort :
    shows (step (atMemory 0xB103FFFF 0xFFFFFFFF [(2, 5)] [])) (fun s => (s.abort, s.abortKind, s.abortAddr, s.mem)) =
      some (true, 2, 0xFFFFFFFF, []) := by decide

theorem test_undef_execute : shows (step (atExecute 0xFFFFFFFF 0 0 [])) (·.E.ea) = some 0xFFFFFFFF := by decide

theorem test_undef_memory : shows (step (atMemory 0xFFFFFFFF 0xFFFFFFFF [] [])) (fun s => (s.abort, s.mem)) = some (false, []) := by
  decide

/-! ### Witnesses: the codec -/

theorem witness_DecodeOfEncodeIsTheInstruction : (Instr.movi 31 (-131072)).wf = true ∧ (Instr.movm 0 31 131071).wf = true ∧
    (Instr.undef 12 0).wf = true ∧ (Instr.undef 15 0xFFFFFFF).wf = true := by decide

theorem witness_EveryWordDecodesToItsOpcode : BitVec.extractLsb' 30 2 0xC0000000#32 = 3#2 ∧
    BitVec.extractLsb' 30 2 0xBFFFFFFF#32 ≠ 3#2 := by decide

theorem witness_ReencodingClearsOnlyIgnoredBits : fieldOp 0x00886001 ∈ [0#4, 1#4, 2#4, 5#4] ∧
    fieldOp 0x5FFFFFFF ∈ [0#4, 1#4, 2#4, 5#4] ∧ fieldOp 0x30FC0005 = 3#4 ∧ fieldOp 0x808BE004 ∈ [8#4, 9#4] ∧
    fieldOp 0x408BFFFF ∈ [4#4, 6#4, 7#4, 10#4, 11#4, 12#4, 13#4, 14#4, 15#4] ∧
    fieldOp 0xFFFFFFFF ∈ [4#4, 6#4, 7#4, 10#4, 11#4, 12#4, 13#4, 14#4, 15#4] := by decide

theorem witness_IgnoredBitsDoNotSelect : fieldOp 0x00886001 ∈ [0#4, 1#4, 2#4, 5#4] ∧ fieldOp 0x30FC0005 = 3#4 ∧
    fieldOp 0x908BE004 ∈ [8#4, 9#4] := by decide

theorem witness_ImmediateIsSignExtended : (0x20000#18).getLsbD 17 = true ∧ (0x1FFFF#18).getLsbD 17 = false := by decide

/-- Requests just inside and just outside the ranges, of each class. -/
theorem witness_EncoderChecksRanges :
    classOf 3 = some (classOfCode 1) ∧ (encoder (ask 3 1 31 31 0 0 131071 0)).err = false ∧
    (encoder (ask 3 1 1 0 0 0 131072 0)).err = true ∧
    classOf 0 = some (classOfCode 0) ∧ (encoder (ask 0 0 31 31 32 0 0 0)).err = true ∧
    classOf 8 = some (classOfCode 3) ∧ (encoder (ask 8 3 0 0 0 8192 0 0)).err = true ∧
    classOf 7 = some (classOfCode 2) ∧ (encoder (ask 7 2 0 0 0 0 0 268435456)).err = true := by decide

theorem witness_EncoderRefusesAWrongClass : classOf 12 ≠ some (classOfCode 0) ∧ classOf 8 ≠ some (classOfCode 1) := by decide

theorem witness_AcceptedRequestDecodesToItsOperands : (encoder (ask 0 0 31 31 31 0 0 0)).err = false ∧
    (encoder (ask 3 1 31 31 0 0 (-131072) 0)).err = false ∧ (encoder (ask 8 3 31 31 0 8191 0 0)).err = false ∧
    (encoder (ask 7 2 0 0 0 0 0 268435455)).err = false := by decide

/-! ### Witnesses: the turns -/

theorem witness_turns : (inTurn .rest 0 0 []).turn = .rest ∧ (inTurn .decode 0 0 []).turn = .decode ∧
    (inTurn .execute 0 0 []).turn = .execute ∧ (inTurn .memory 0 0 []).turn = .memory ∧
    (inTurn .writeback 0 0 []).turn = .writeback := by decide

theorem witness_LslLsrTurns : (31#13).toNat < 32 ∧ 32 ≤ (32#13).toNat ∧ (inTurn .execute 0x8088001F 0 []).turn = .execute := by
  decide

theorem witness_MovrTurns : (inTurn .memory 0xA18007FF 2047 []).turn = .memory ∧
    (inTurn .memory 0xA18007FF 2047 []).M.ea.toNat < 2048 := by decide

theorem witness_MovmTurns : (inTurn .memory 0xB18007FF 2047 []).turn = .memory ∧
    (inTurn .memory 0xB18007FF 2047 []).M.ea.toNat < 2048 ∧
    Memory.wf (inTurn .memory 0xB18007FF 2047 []).mem = true := by decide

theorem witness_OutOfBoundsMemoryTurnAborts : (inTurn .memory 0xA1800800 2048 []).turn = .memory ∧
    2048 ≤ (inTurn .memory 0xA1800800 2048 []).M.ea.toNat := by decide

/-- Registers 1 and 2 equal with offsets 1, 2 and 0, and unequal. -/
theorem witness_JeqTurns :
    (inTurn .execute 0 0 [(1, 9), (2, 9)]).turn = .execute ∧
    (inTurn .execute 0 0 [(1, 9), (2, 9)]).readReg 1 = (inTurn .execute 0 0 [(1, 9), (2, 9)]).readReg 2 ∧
    (inTurn .execute 0 0 [(1, 9), (2, 8)]).readReg 1 ≠ (inTurn .execute 0 0 [(1, 9), (2, 8)]).readReg 2 ∧
    (1 : Word).toInt = 1 ∧ 1 < (2 : Word).toInt ∧ (0 : Word).toInt ≤ 0 := by decide

/-- Own pc is 1 and pc is 0: targets 2, 1 and 3. -/
theorem witness_JmpTurns :
    (inTurn .execute 0 0 []).turn = .execute ∧
    BitVec.ofNat 32 ((inTurn .execute 0 0 []).pc.toNat / 2 ^ 28 * 2 ^ 28 + (2 : Addr).toNat) =
      (inTurn .execute 0 0 []).E.pc + 1 ∧
    BitVec.ofNat 32 ((inTurn .execute 0 0 []).pc.toNat / 2 ^ 28 * 2 ^ 28 + (1 : Addr).toNat) =
      (inTurn .execute 0 0 []).E.pc ∧
    BitVec.ofNat 32 ((inTurn .execute 0 0 []).pc.toNat / 2 ^ 28 * 2 ^ 28 + (3 : Addr).toNat) ≠
      (inTurn .execute 0 0 []).E.pc + 1 ∧
    BitVec.ofNat 32 ((inTurn .execute 0 0 []).pc.toNat / 2 ^ 28 * 2 ^ 28 + (3 : Addr).toNat) ≠
      (inTurn .execute 0 0 []).E.pc := by decide

/-! ### Witnesses: registers, reset and the ports -/

theorem witness_RegisterWriteIsThePair : (31 : RegIdx) ≠ 0 ∧ (0 : RegIdx) ≠ 31 := by decide

theorem witness_ResetPortWins : { Inputs.none with rst := true, start := true }.rst = true := by decide

theorem witness_PortsIgnoredWhileRunning :
    { Inputs.none with ldWe := true, start := true }.rst = false ∧ (quiet true false false 1).running = true := by decide

/-- Idle machines have the invariant, with a program and without one. -/
theorem witness_idle (n : BitVec 12) (h : n = 1 ∨ n = 0) : (quiet false false false n).Inv := by
  rcases h with rfl | rfl <;> constructor <;>
    first
    | decide
    | (simp only [Context.ownPcOk]; decide)
    | (simp only [Context.decoded]; decide)

theorem witness_LoadPortsOneAtATime :
    (quiet false false false 1).running = false ∧ (2048#12).toNat ≤ 2048 ∧ 2048 < (2049#12).toNat ∧
    (quiet false true false 1).halted = true ∧ (quiet false true false 1).running = false ∧
    (quiet false false true 1).abort = true ∧ (quiet false false true 1).running = false ∧
    (quiet false false false 1).halted = false ∧ (quiet false false false 1).abort = false ∧
    (quiet false false false 1).Inv ∧ (quiet false false false 1).n ≠ 0 ∧
    (quiet false false false 0).Inv ∧ (quiet false false false 0).n = 0 :=
  ⟨by decide, by decide, by decide, by decide, by decide, by decide, by decide, by decide, by decide, witness_idle 1 (.inl rfl),
    by decide, witness_idle 0 (.inr rfl), by decide⟩

theorem witness_StartedMachineIsReadyToFetch : (quiet false false false 1).Inv ∧ (quiet false false false 1).running = false ∧
    (quiet false false false 1).halted = false ∧ (quiet false false false 1).abort = false ∧
    (quiet false false false 1).n ≠ 0 :=
  ⟨witness_idle 1 (.inl rfl), by decide, by decide, by decide, by decide⟩

/-! ### Witnesses: one step -/

theorem witness_NoAdvanceWhileNotRunning : (quiet false true false 1).running = false := by decide

/-- Ended runs have the invariant, halted or aborted. -/
theorem witness_EndedRunStaysEnded :
    ((quiet false true false 1).Inv ∧ (quiet false true false 1).halted = true) ∧
    ((quiet false false true 1).Inv ∧ (quiet false false true 1).abort = true) := by
  refine ⟨⟨?_, by decide⟩, ⟨?_, by decide⟩⟩ <;> constructor <;>
    first
    | decide
    | (simp only [Context.ownPcOk]; decide)
    | (simp only [Context.decoded]; decide)

/-- Odd ticks with a live context for Write-back (tick 7) and without (tick 1). -/
theorem witness_StepRunsWritebackTurn :
    ((atWriteback 0x01844000 12).running = true ∧ (atWriteback 0x01844000 12).abort = false ∧
      (atWriteback 0x01844000 12).t % 2 = 0 ∧ 6 ≤ (atWriteback 0x01844000 12).t ∧
      (atWriteback 0x01844000 12).M.live = true ∧ (atWriteback 0x01844000 12).M.dec.instr = .add 3 1 2) ∧
    ((fetching 4 [] []).running = true ∧ (fetching 4 [] []).abort = false ∧ (fetching 4 [] []).t % 2 = 0 ∧
      (fetching 4 [] []).M.live = false ∧ (fetching 4 [] []).M.dec.instr = .nop) := by decide

/-- A store in E, an addition in D and a load in F before tick 6. -/
def full : State :=
  { atMemory 0xB1040064 120 [(2, 5)] [] with D := { ctx 0x01844000 with pc := 2 }, F := { ctx 0xA1840064 with pc := 3 } }

/-- Even ticks with a full pipeline (tick 6), during fill (tick 4, E empty) and during drain (tick 6, D and F empty). -/
theorem witness_StepRunsMemoryExecuteDecodeTurns :
    (full.running = true ∧ full.abort = false ∧ full.t % 2 = 1 ∧ 5 ≤ full.t ∧ full.E.live = true ∧
      full.E.dec.instr = .movm 2 1 100 ∧ full.D.live = true ∧ full.D.dec.instr = .add 3 1 2 ∧ full.F.live = true ∧
      decode full.F.word = .movr 3 1 100) ∧
    ((atExecute 0x40880002 0 0 []).running = true ∧ (atExecute 0x40880002 0 0 []).abort = false ∧
      (atExecute 0x40880002 0 0 []).t % 2 = 1 ∧ (atExecute 0x40880002 0 0 []).E.live = false ∧
      (atExecute 0x40880002 0 0 []).D.dec.instr = .jeq 1 2 2 ∧ (atExecute 0x40880002 0 0 []).F.live = true) ∧
    ((atMemory 0xB1040064 120 [] []).running = true ∧ (atMemory 0xB1040064 120 [] []).abort = false ∧
      (atMemory 0xB1040064 120 [] []).t % 2 = 1 ∧ (atMemory 0xB1040064 120 [] []).E.live = true ∧
      (atMemory 0xB1040064 120 [] []).D.live = false ∧ (atMemory 0xB1040064 120 [] []).F.live = false) := by decide

/-- ADD R3, R1, R2 at address 0 of a program of four words, ready to be fetched. -/
theorem witness_StepFetchesThenDecodes : (fetching 4 [(0, 0x01844000)] []).ReadyToFetch ∧
    (fetching 4 [(0, 0x01844000)] []).instrAt (fetching 4 [(0, 0x01844000)] []).pc.toNat = .add 3 1 2 :=
  ⟨⟨rfl, rfl, rfl, rfl, rfl, rfl, rfl, by decide, by decide⟩, by decide⟩

/-- A running step that ends with a next state, on an even and on an odd tick. -/
theorem witness_AdvanceCountsOneTick :
    (full.running = true ∧ full.turn = .rest ∧ full.t % 2 = 1 ∧ ∃ s', step full = .next s') ∧
    ((atWriteback 0 0).running = true ∧ (atWriteback 0 0).t % 2 = 0 ∧ ∃ s', step (atWriteback 0 0) = .next s') :=
  ⟨⟨rfl, rfl, rfl, _, rfl⟩, ⟨rfl, rfl, _, rfl⟩⟩

theorem witness_ContextsMoveByOneSlot :
    (full.running = true ∧ full.t % 2 = 1 ∧ ∃ s', step full = .next s') ∧
    ((atWriteback 0 0).running = true ∧ (atWriteback 0 0).t % 2 = 0 ∧ ∃ s', step (atWriteback 0 0) = .next s') :=
  ⟨⟨rfl, rfl, _, rfl⟩, ⟨rfl, rfl, _, rfl⟩⟩

/-- A step that changes a register. -/
theorem witness_RegistersChangeOnlyAtWriteback :
    ∃ s', step (atWriteback 0x01844000 12) = .next s' ∧ s'.regs ≠ (atWriteback 0x01844000 12).regs :=
  ⟨_, rfl, by decide⟩

/-- A step that changes memory. -/
theorem witness_MemoryChangesOnlyByStore :
    Memory.wf full.mem = true ∧ ∃ s', step full = .next s' ∧ s'.mem ≠ full.mem :=
  ⟨rfl, _, rfl, by decide⟩

/-- Steps that change pc: a fetch, a JEQ and a JMP. -/
theorem witness_PcChangesOnlyByFetchOrRedirect :
    (∃ s', step (fetching 4 [] []) = .next s' ∧ s'.pc = 1) ∧
    (∃ s', step (atExecute 0x40880002 0 0 []) = .next s' ∧ s'.pc = 3) ∧
    (∃ s', step (atExecute 0x70000007 0 0 []) = .next s' ∧ s'.pc = 7) :=
  ⟨⟨_, rfl, rfl⟩, ⟨_, rfl, rfl⟩, ⟨_, rfl, rfl⟩⟩

/-- The first address outside memory, of a load and of a store. -/
theorem witness_OnlyOutOfBoundsAccessAborts :
    ((atMemory 0xA1800800 2048 [] []).abort = false ∧
      ∃ s', step (atMemory 0xA1800800 2048 [] []) = .next s' ∧ s'.abort = true) ∧
    ((atMemory 0xB1040001 2048 [] []).abort = false ∧
      ∃ s', step (atMemory 0xB1040001 2048 [] []) = .next s' ∧ s'.abort = true) :=
  ⟨⟨rfl, _, rfl, rfl⟩, ⟨rfl, _, rfl, rfl⟩⟩

theorem witness_AbortLeavesTheRestUndone :
    (atMemory 0xA1800800 2048 [] []).abort = false ∧ (atMemory 0xA1800800 2048 [] []).turn = .rest ∧
      ∃ s', step (atMemory 0xA1800800 2048 [] []) = .next s' ∧ s'.abort = true :=
  ⟨rfl, rfl, _, rfl, rfl⟩

/-! ### Witnesses: the invariants -/

/-- A state with the invariant in mid run: three instructions in flight. -/
theorem witness_full_inv : full.Inv := by
  constructor <;>
    first
    | decide
    | (simp only [Context.ownPcOk]; decide)
    | (simp only [Context.decoded]; decide)

/-- A state with the invariant before its last tick: one instruction left, in M. -/
theorem witness_last_inv : { atWriteback 0x01844000 12 with n := 3 }.Inv := by
  constructor <;>
    first
    | decide
    | (simp only [Context.ownPcOk]; decide)
    | (simp only [Context.decoded]; decide)

/-- A step that does not end the run, and one that does. -/
theorem witness_HaltsExactlyWhenDrained :
    (full.Inv ∧ full.running = true ∧ ∃ s', step full = .next s' ∧ s'.abort = false ∧ s'.halted = false) ∧
    ({ atWriteback 0x01844000 12 with n := 3 }.Inv ∧ { atWriteback 0x01844000 12 with n := 3 }.running = true ∧
      ∃ s', step { atWriteback 0x01844000 12 with n := 3 } = .next s' ∧ s'.abort = false ∧ s'.halted = true) :=
  ⟨⟨witness_full_inv, rfl, _, rfl, rfl, rfl⟩, ⟨witness_last_inv, rfl, _, rfl, rfl, rfl⟩⟩

/-- Steps in which every strobe is up: Memory, Execute and Decode; Fetch and Write-back. -/
theorem witness_TraceStrobesTellWhoActed :
    (full.Inv ∧ full.running = true ∧ ∃ s', step full = .next s' ∧ s'.trace.evMemory = true ∧ s'.trace.evExecute = true ∧
      s'.trace.evDecode = true) ∧
    ({ atWriteback 0x01844000 12 with n := 3 }.Inv ∧ { atWriteback 0x01844000 12 with n := 3 }.running = true ∧
      ∃ s', step { atWriteback 0x01844000 12 with n := 3 } = .next s' ∧ s'.trace.evWriteback = true) ∧
    shows (step (fetching 1 [] [])) (·.trace.evFetch) = some true :=
  ⟨⟨witness_full_inv, rfl, _, rfl, rfl, rfl, rfl⟩, ⟨witness_last_inv, rfl, _, rfl, rfl⟩, rfl⟩

theorem witness_StepKeepsInv : full.Inv ∧ ∃ s', step full = .next s' := ⟨witness_full_inv, _, rfl⟩

theorem witness_ClockEdgeKeepsInv :
    (full.Inv ∧ ∃ s', clockEdge { Inputs.none with ldWe := true, start := true } full = .next s') ∧
    ((quiet false false false 1).Inv ∧
      ∃ s', clockEdge { Inputs.none with seedWe := true, nWe := true, nData := 2048, start := true } (quiet false false false 1) =
        .next s') :=
  ⟨⟨witness_full_inv, _, rfl⟩, ⟨witness_idle 1 (.inl rfl), _, rfl⟩⟩

theorem witness_InvNeverFaults : full.Inv := witness_full_inv

/-- Two states that differ in a dead context. -/
theorem witness_DeadContextsAreUnobservable :
    full.SameUpToDead { full with M := { Context.bubble with flush := true, word := 7, ea := 9 } } ∧
    full ≠ { full with M := { Context.bubble with flush := true, word := 7, ea := 9 } } ∧
    ∃ t, runTicks 1 full = .next t :=
  ⟨⟨rfl, rfl, rfl, .inl rfl, .inl rfl, .inl rfl, .inr ⟨rfl, rfl⟩, .inl rfl, rfl, rfl, rfl, rfl, rfl, rfl, rfl, rfl, rfl⟩,
    by decide, _, rfl⟩

/-! ### Witnesses: instructions in the pipeline -/

/-- Machines built by `fetching` are ready to fetch. -/
theorem fetching_ready (n : BitVec 12) (mem : Memory) (regs : List (RegIdx × Word)) (h : n.toNat ≤ 2048 ∧ 0 < n.toNat) :
    (fetching n mem regs).ReadyToFetch :=
  ⟨rfl, rfl, rfl, rfl, rfl, rfl, rfl, h.1, h.2⟩

/-- A load of the last word of memory, in a program as large as memory. -/
def loadLast2048 : State := fetching 2048 [(0, 0xA18007FF)] []

/-- The same load, a program of its own. -/
def loadLast : State := fetching 1 [(0, 0xA18007FF)] []

/-- A load of the first address outside memory. -/
def loadOutside : State := fetching 1 [(0, 0xA1800800)] []

/-- JEQ R1, R2, 2 with equal registers. -/
def jeqTaken : State := fetching 4 [(0, 0x40880002)] []

/-- JEQ R1, R2, 2 with unequal registers. -/
def jeqNotTaken : State := fetching 4 [(0, 0x40880002)] [(1, 9)]

/-- JMP 7. -/
def jmpSeven : State := fetching 4 [(0, 0x70000007)] []

/-- Vector 5.4, first row: MOVI R1, 5 and ADD R2, R1, R1. -/
def distanceOne : State := fetching 2 [(0, 0x30800005), (1, 0x01042000)] []

/-- Vector 5.4, third row: MOVI R1, 5, two NOPs, ADD R2, R1, R1. -/
def distanceThree : State := fetching 4 [(0, 0x30800005), (3, 0x01042000)] []

/-- Program P3: MOVI R5, 1 with JEQ R5, R0, 3 right behind it. -/
def compareBehind : State := fetching 2 [(0, 0x32800001), (1, 0x42800003)] []

/-- The variant of P3: a NOP between the two. -/
def compareTwoBehind : State := fetching 3 [(0, 0x32800001), (2, 0x42800003)] []

/-- MOVI R2, 85 with MOVM R2, R1, 100 right behind it. -/
def storeBehind : State := fetching 2 [(0, 0x31000055), (1, 0xB1040064)] [(1, 20)]

/-- Vector 4.3: MOVM R2, R1, 7 and MOVR R3, R1, 7. -/
def storeLoad : State := fetching 2 [(0, 0xB1040007), (1, 0xA1840007)] [(1, 200), (2, 0xA5A5A5A5)]

/-- MOVI R1, 5, a program of its own. -/
def oneMovi : State := fetching 1 [(0, 0x30800005)] []

/-- JMP 7 with JEQ R0, R0, 2 in its shadow. -/
def shadowedJeq : State := fetching 9 [(0, 0x70000007), (1, 0x40000002)] []

/-- MOVR R1, R0, 9 with MOVR R2, R1, 0 right behind it: a load as producer and as consumer. -/
def loadLoad : State := fetching 2 [(0, 0xA0800009), (1, 0xA1040000), (9, 5)] []

/-- MOVR R1, R0, 9, two NOPs, MOVR R2, R1, 0: the load reads its base after the first load wrote it. -/
def loadLoadDistanceThree : State := fetching 4 [(0, 0xA0800009), (3, 0xA1040000), (5, 77), (9, 5)] []

/-- MOVR R5, R0, 9 with JEQ R5, R0, 3 right behind it. -/
def loadCompare : State := fetching 2 [(0, 0xA2800009), (1, 0x42800003), (9, 1)] []

/-- MOVR R5, R0, 9, a NOP, JEQ R5, R0, 3. -/
def loadCompareTwo : State := fetching 3 [(0, 0xA2800009), (2, 0x42800003), (9, 1)] []

/-- MOVR R2, R0, 9 with MOVM R2, R1, 100 right behind it. -/
def loadStore : State := fetching 2 [(0, 0xA1000009), (1, 0xB1040064), (9, 85)] [(1, 20)]

/-- MOVI R1, 5, a NOP, MOVI R2, 85, MOVM R2, R1, 2042: the store goes to the last word of memory. -/
def storeDistanceThree : State := fetching 4 [(0, 0x30800005), (2, 0x31000055), (3, 0xB10407FA)] []

theorem witness_InstructionKeepsItsTimetable : loadLast2048.ReadyToFetch ∧
    ∀ a, netAddress (loadLast2048.instrAt loadLast2048.pc.toNat) loadLast2048 = some a → inBounds a = true :=
  ⟨fetching_ready _ _ _ (by decide), fun a h => by
    have h2 : some (2047 : Word) = some a := h
    injection h2 with h3
    rw [← h3]; decide⟩

theorem witness_SevenTicksAreTheNetEffect : loadLast.ReadyToFetch ∧
    ∀ a, netAddress (loadLast.instrAt loadLast.pc.toNat) loadLast = some a → inBounds a = true :=
  ⟨fetching_ready _ _ _ (by decide), fun a h => by
    have h2 : some (2047 : Word) = some a := h
    injection h2 with h3
    rw [← h3]; decide⟩

theorem witness_OutOfBoundsInstructionAbortsTheRun : loadOutside.ReadyToFetch ∧
    netAddress (loadOutside.instrAt loadOutside.pc.toNat) loadOutside = some 2048 ∧ inBounds 2048 = false :=
  ⟨fetching_ready _ _ _ (by decide), by decide, by decide⟩

theorem witness_TransferGoesToItsTarget :
    (jeqTaken.ReadyToFetch ∧ jeqTaken.instrAt 0 = .jeq 1 2 2 ∧
      netTaken (.jeq 1 2 2) jeqTaken 0 = true) ∧
    (jeqNotTaken.ReadyToFetch ∧ jeqNotTaken.instrAt 0 = .jeq 1 2 2 ∧
      netTaken (.jeq 1 2 2) jeqNotTaken 0 = false) ∧
    (jmpSeven.ReadyToFetch ∧ jmpSeven.instrAt 0 = .jmp 7 ∧
      netTaken (.jmp 7) jmpSeven 0 = true) :=
  ⟨⟨fetching_ready _ _ _ (by decide), by decide, by decide⟩, ⟨fetching_ready _ _ _ (by decide), by decide, by decide⟩,
    ⟨fetching_ready _ _ _ (by decide), by decide, by decide⟩⟩

theorem witness_BranchShadowHasNoEffect :
    (shadowedJeq.ReadyToFetch ∧ netTaken (shadowedJeq.instrAt shadowedJeq.pc.toNat) shadowedJeq shadowedJeq.pc = true) ∧
    shadowedJeq.instrAt 1 = .jeq 0 0 2 ∧
    (jeqTaken.ReadyToFetch ∧ netTaken (jeqTaken.instrAt jeqTaken.pc.toNat) jeqTaken jeqTaken.pc = true) :=
  ⟨⟨fetching_ready _ _ _ (by decide), by decide⟩, by decide, ⟨fetching_ready _ _ _ (by decide), by decide⟩⟩

theorem witness_NextInstructionReadsOldValue :
    distanceOne.ReadyToFetch ∧
    distanceOne.pc.toNat + 1 < distanceOne.n.toNat ∧
    netWrite (distanceOne.instrAt 0) distanceOne = some (1, 5) ∧
    netWrite (distanceOne.instrAt 1) distanceOne = some (2, 0) :=
  ⟨fetching_ready _ _ _ (by decide), by decide, by decide, by decide⟩

theorem witness_NextInstructionReadsOldValue_load :
    loadLoad.ReadyToFetch ∧ loadLoad.pc.toNat + 1 < loadLoad.n.toNat ∧
    netWrite (loadLoad.instrAt 0) loadLoad = some (1, 5) ∧ netWrite (loadLoad.instrAt 1) loadLoad = some (2, 0xA0800009) :=
  ⟨fetching_ready _ _ _ (by decide), by decide, by decide, by decide⟩

theorem witness_FourthInstructionReadsFirstResult :
    distanceThree.ReadyToFetch ∧
    distanceThree.pc.toNat + 3 < distanceThree.n.toNat ∧
    netWrite (distanceThree.instrAt 0) distanceThree = some (1, 5) ∧
    netWrite (distanceThree.instrAt 1) distanceThree = some (0, 0) ∧
    netWrite (distanceThree.instrAt 2) distanceThree = some (0, 0) ∧
    netWrite (distanceThree.instrAt 3) (distanceThree.writeReg 1 5) = some (2, 10) :=
  ⟨fetching_ready _ _ _ (by decide), by decide, by decide, by decide, by decide, by decide⟩

theorem witness_FourthInstructionReadsFirstResult_load :
    loadLoadDistanceThree.ReadyToFetch ∧ loadLoadDistanceThree.pc.toNat + 3 < loadLoadDistanceThree.n.toNat ∧
    netWrite (loadLoadDistanceThree.instrAt 0) loadLoadDistanceThree = some (1, 5) ∧
    netWrite (loadLoadDistanceThree.instrAt 1) loadLoadDistanceThree = some (0, 0) ∧
    netWrite (loadLoadDistanceThree.instrAt 2) loadLoadDistanceThree = some (0, 0) ∧
    netWrite (loadLoadDistanceThree.instrAt 3) (loadLoadDistanceThree.writeReg 1 5) = some (2, 77) :=
  ⟨fetching_ready _ _ _ (by decide), by decide, by decide, by decide, by decide, by decide⟩

theorem witness_CompareReadsAtExecute :
    (compareBehind.ReadyToFetch ∧
      compareBehind.pc.toNat + 1 < compareBehind.n.toNat ∧
      netWrite (compareBehind.instrAt 0) compareBehind = some (5, 1) ∧
      compareBehind.instrAt 1 = .jeq 5 0 3) ∧
    (compareTwoBehind.ReadyToFetch ∧
      compareTwoBehind.pc.toNat + 2 < compareTwoBehind.n.toNat ∧
      netWrite (compareTwoBehind.instrAt 0) compareTwoBehind = some (5, 1) ∧
      netWrite (compareTwoBehind.instrAt 1) compareTwoBehind = some (0, 0) ∧
      compareTwoBehind.instrAt 2 = .jeq 5 0 3) :=
  ⟨⟨fetching_ready _ _ _ (by decide), by decide, by decide, by decide⟩,
    ⟨fetching_ready _ _ _ (by decide), by decide, by decide, by decide, by decide⟩⟩

theorem witness_CompareReadsAtExecute_load :
    (loadCompare.ReadyToFetch ∧ loadCompare.pc.toNat + 1 < loadCompare.n.toNat ∧
      netWrite (loadCompare.instrAt 0) loadCompare = some (5, 1) ∧ loadCompare.instrAt 1 = .jeq 5 0 3) ∧
    (loadCompareTwo.ReadyToFetch ∧ loadCompareTwo.pc.toNat + 2 < loadCompareTwo.n.toNat ∧
      netWrite (loadCompareTwo.instrAt 0) loadCompareTwo = some (5, 1) ∧
      netWrite (loadCompareTwo.instrAt 1) loadCompareTwo = some (0, 0) ∧ loadCompareTwo.instrAt 2 = .jeq 5 0 3) :=
  ⟨⟨fetching_ready _ _ _ (by decide), by decide, by decide, by decide⟩,
    ⟨fetching_ready _ _ _ (by decide), by decide, by decide, by decide, by decide⟩⟩

theorem witness_StoreDataIsNeverStale :
    storeBehind.ReadyToFetch ∧
    storeBehind.pc.toNat + 1 < storeBehind.n.toNat ∧
    netWrite (storeBehind.instrAt 0) storeBehind = some (2, 85) ∧
    storeBehind.instrAt 1 = .movm 2 1 100 ∧
    inBounds (storeBehind.readReg 1 + 100) = true :=
  ⟨fetching_ready _ _ _ (by decide), by decide, by decide, by decide, by decide⟩

theorem witness_StoreDataIsNeverStale_load :
    loadStore.ReadyToFetch ∧ loadStore.pc.toNat + 1 < loadStore.n.toNat ∧
    netWrite (loadStore.instrAt 0) loadStore = some (2, 85) ∧ loadStore.instrAt 1 = .movm 2 1 100 ∧
    inBounds (loadStore.readReg 1 + 100) = true :=
  ⟨fetching_ready _ _ _ (by decide), by decide, by decide, by decide, by decide⟩

theorem witness_FourthInstructionStoresWithFreshBase :
    storeDistanceThree.ReadyToFetch ∧ storeDistanceThree.pc.toNat + 3 < storeDistanceThree.n.toNat ∧
    netWrite (storeDistanceThree.instrAt 0) storeDistanceThree = some (1, 5) ∧
    netWrite (storeDistanceThree.instrAt 1) storeDistanceThree = some (0, 0) ∧
    netWrite (storeDistanceThree.instrAt 2) storeDistanceThree = some (2, 85) ∧
    storeDistanceThree.instrAt 3 = .movm 2 1 2042 ∧
    inBounds ((storeDistanceThree.writeReg 1 5).readReg 1 + 2042) = true :=
  ⟨fetching_ready _ _ _ (by decide), by decide, by decide, by decide, by decide, by decide, by decide⟩

theorem witness_StoreThenLoadReturnsTheSource :
    storeLoad.ReadyToFetch ∧
    storeLoad.pc.toNat + 1 < storeLoad.n.toNat ∧
    Memory.wf storeLoad.mem = true ∧
    storeLoad.instrAt 0 = .movm 2 1 7 ∧
    storeLoad.instrAt 1 = .movr 3 1 7 ∧
    inBounds (storeLoad.readReg 1 + 7) = true :=
  ⟨fetching_ready _ _ _ (by decide), by decide, by decide, by decide, by decide, by decide⟩

theorem witness_LastInstructionHalts : oneMovi.ReadyToFetch ∧
    oneMovi.halted = false ∧
    oneMovi.pc.toNat + 1 = oneMovi.n.toNat ∧
    (oneMovi.instrAt 0).opcode ≠ 4#4 ∧
    (oneMovi.instrAt 0).opcode ≠ 7#4 ∧
    ∀ a, netAddress (oneMovi.instrAt 0) oneMovi = some a → inBounds a = true :=
  ⟨fetching_ready _ _ _ (by decide), by decide, by decide, by decide, by decide, fun a h => by
    have h2 : none = some a := h
    cases h2⟩

end Sys2Proof.Tests
end

/-! ### The family of file 10: registers, ports, the invariant

What a step can do, said by its phases; the invariant through an advance; and runs from states equal but for dead contexts. -/

namespace Sys2Proof.Machine

open Host (Outcome)

/-! ### Which instruction a set of decoded fields stands for -/

/-- The register an instruction writes at Write-back, for the instructions of the write-back set (R121). -/
def wbDest : Instr → Option RegIdx
  | .add ra _ _ | .sub ra _ _ | .mul ra _ _ | .movi ra _ | .and ra _ _ | .xori ra _ _ | .lsl ra _ _ | .lsr ra _ _ |
      .movr ra _ _ => some ra
  | .jeq _ _ _ | .jmp _ | .movm _ _ _ | .undef _ _ => none

/-- The index on read port 1 at Decode: the operand, or the bits of field B of the word (R34, R122). -/
def portB (w : Word) : Instr → RegIdx
  | .add _ rb _ | .sub _ rb _ | .mul _ rb _ | .jeq _ rb _ | .and _ rb _ | .xori _ rb _ | .lsl _ rb _ | .lsr _ rb _ |
      .movr _ rb _ | .movm _ rb _ => rb
  | .movi _ _ | .jmp _ | .undef _ _ => fieldB w

/-- The index on read port 2 at Decode: the operand, or the bits of field C of the word (R34, R122). -/
def portC (w : Word) : Instr → RegIdx
  | .add _ _ rc | .sub _ _ rc | .mul _ _ rc | .and _ _ rc => rc
  | .movi _ _ | .jeq _ _ _ | .xori _ _ _ | .jmp _ | .lsl _ _ _ | .lsr _ _ _ | .movr _ _ _ | .movm _ _ _ |
      .undef _ _ => fieldC w

theorem portB_decode (w : Word) : portB w (decode w) = fieldB w := by
  unfold decode Fields.instr
  split <;> rfl

theorem portC_decode (w : Word) : portC w (decode w) = fieldC w := by
  unfold decode Fields.instr
  split <;> rfl

/-- A numeral that an opcode's unsigned reading equals is the opcode. -/
theorem opcode_eq_of_toNat {op : Opcode} {k : Nat} (h : op.toNat = k) : op = BitVec.ofNat 4 k := by
  rw [← h, BitVec.ofNat_toNat, BitVec.setWidth_eq]

theorem opcode_and_rA_of_wbDest {f : Fields} {ra : RegIdx} (h : wbDest f.instr = some ra) :
    f.op ∈ [0#4, 1#4, 2#4, 3#4, 5#4, 6#4, 8#4, 9#4, 10#4] ∧ ra = f.rA := by
  unfold Fields.instr at h
  split at h <;> cases h <;> rename_i hop <;> exact ⟨by rw [opcode_eq_of_toNat hop]; decide, rfl⟩

theorem fields_of_instr_eq_jeq {f : Fields} {ra rb : RegIdx} {imm : Word} (h : f.instr = .jeq ra rb imm) :
    f.op = 4#4 ∧ ra = f.rA ∧ rb = f.rB ∧ imm = f.imm := by
  unfold Fields.instr at h
  split at h <;> cases h
  rename_i hop
  exact ⟨opcode_eq_of_toNat hop, rfl, rfl, rfl⟩

theorem fields_of_instr_eq_jmp {f : Fields} {addr : Addr} (h : f.instr = .jmp addr) : f.op = 7#4 ∧ addr = f.addr := by
  unfold Fields.instr at h
  split at h <;> cases h
  rename_i hop
  exact ⟨opcode_eq_of_toNat hop, rfl⟩

/-! ### The Decode and Write-back turns of every instruction -/

/-- Decode, said once for all instructions. -/
theorem exec_decode_eq (i : Instr) {s : State} (h : s.turn = .decode) :
    exec i s = .next (s.latchOperands (portB s.D.word i) (portC s.D.word i)) := by
  cases i <;> simp only [exec, execAdd, execSub, execMul, execMovi, execJeq, execAnd, execXori, execJmp, execLsl, execLsr,
    execMovr, execMovm, execUndef, State.valueTurns, h] <;> rfl

/-- Write-back, said once for all instructions. -/
theorem exec_writeback_eq (i : Instr) {s : State} (h : s.turn = .writeback) :
    exec i s = .next ((wbDest i).elim s fun ra => s.writeReg ra s.W.result) := by
  cases i <;> simp only [exec, execAdd, execSub, execMul, execMovi, execJeq, execAnd, execXori, execJmp, execLsl, execLsr,
    execMovr, execMovm, execUndef, State.valueTurns, h] <;> rfl

/-- Settles O11: both read ports of the decoded instruction carry the word's own bits. -/
theorem decodeTurnIsUniform : Obligations.DecodeTurnIsUniform := by
  intro s h
  rw [exec_decode_eq _ h, portB_decode, portC_decode]
  rfl

/-! ### Registers, reset and the ports -/

/-- Settles O21. -/
theorem registerZeroReadsZero : Obligations.RegisterZeroReadsZero :=
  ⟨fun s => ⟨s.readReg_zero, s.readReg_zero⟩, fun s i v =>
    ⟨s.writeReg_regs_zero i v, (s.writeReg i v).readReg_zero, (s.writeReg i v).readReg_zero⟩⟩

/-- Settles O22. -/
theorem registerWriteIsThePair : Obligations.RegisterWriteIsThePair := by
  refine fun s i v => ⟨rfl, s.writeReg_regs_zero i v, fun hi => ?_, fun j hj => ?_⟩
  · rw [State.readReg_writeReg, if_neg hi, if_pos rfl]
  · by_cases h0 : j = 0
    · rw [h0]
      exact (s.writeReg i v).readReg_zero.trans s.readReg_zero.symm
    · rw [State.readReg_writeReg, if_neg h0, if_neg hj]

/-- Settles O23. -/
theorem resetState : Obligations.ResetState := by
  refine ⟨fun i => ?_, fun _ => rfl, rfl, rfl, rfl, rfl, rfl, rfl, rfl, rfl, rfl, rfl, rfl, rfl, rfl, rfl⟩
  simp [State.readReg, State.reset]

theorem clockEdge_of_rst {p : Inputs} (h : p.rst = true) (s : State) : clockEdge p s = .next State.reset := by
  simp [clockEdge, h]

theorem clockEdge_of_running {p : Inputs} {s : State} (hp : p.rst = false) (h : s.running = true) :
    clockEdge p s = step s := by
  simp [clockEdge, hp, h]

theorem clockEdge_of_not_running {p : Inputs} {s : State} (hp : p.rst = false) (h : s.running = false) :
    clockEdge p s = .next (s.applyPorts p) := by
  simp [clockEdge, hp, h]

/-- Settles O24. -/
theorem resetPortWins : Obligations.ResetPortWins := fun _ s h => clockEdge_of_rst h s

/-- Settles O25. -/
theorem portsIgnoredWhileRunning : Obligations.PortsIgnoredWhileRunning := fun _ _ => clockEdge_of_running

theorem State.hostStart_of_ended {s : State} (h : s.halted = true ∨ s.abort = true) : s.hostStart = s := by
  simp [State.hostStart, h]

/-- Start on an idle machine: the halt test sees pc = 0 and five bubbles, so N alone decides (R232). -/
theorem State.Inv.hostStart_idle {s : State} (h : s.Inv) (hr : s.running = false) (hh : s.halted = false)
    (ha : s.abort = false) :
    s.hostStart = if s.n = 0 then { s with halted := true } else { s with running := true } := by
  obtain ⟨-, hpc, hF, hD, hE, hM, -⟩ := h.idle hr hh ha
  have hdrained : State.drained { s with running := true } = decide (s.n = 0) := by
    have hn : 0 < s.n.toNat ↔ ¬ s.n = 0#12 := by simp [← BitVec.toNat_inj, Nat.pos_iff_ne_zero]
    simp [State.drained, State.pcInProgram, hpc, hF, hD, hE, hM, hn]
  have hstart : s.hostStart = State.haltTest { s with running := true } := if_neg (by simp [hh, ha])
  rw [hstart, State.haltTest, hdrained]
  by_cases hn : s.n = 0
  · rw [if_pos (decide_eq_true hn), if_pos hn]
    simp only [State.halt, ← hr]
  · rw [if_neg (by simpa using hn), if_neg hn]

/-- Settles O26: one clause per port. -/
theorem loadPortsOneAtATime : Obligations.LoadPortsOneAtATime := by
  intro s hr
  have edge : ∀ {p : Inputs}, p.rst = false → clockEdge p s = .next (s.applyPorts p) :=
    fun hp => clockEdge_of_not_running hp hr
  have start : clockEdge { Inputs.none with start := true } s = .next s.hostStart := edge rfl
  refine ⟨fun a v => edge rfl, fun i v => edge rfl, fun v hv => ?_, fun v hv => ?_, fun he => ?_,
    fun hh ha hi hn => ?_, fun hh ha hi hn => ?_⟩
  · rw [edge rfl]
    simp [State.applyPorts, Inputs.none, State.hostCount, hv]
  · rw [edge rfl]
    simp [State.applyPorts, Inputs.none, State.hostCount, Nat.not_le.mpr hv]
  · rw [start, State.hostStart_of_ended he]
  · rw [start, hi.hostStart_idle hr hh ha, if_neg hn]
  · rw [start, hi.hostStart_idle hr hh ha, if_pos hn]

end Sys2Proof.Machine

/-! ### What a step can do, by its phases -/

namespace Sys2Proof.Machine

open Host (Outcome)

/-- Two readings of one outcome agree. -/
theorem eq_of_next {o : Outcome State Fault Refusal} {s s' : State} (h : o = .next s) (h' : o = .next s') : s = s' :=
  Outcome.next.inj (h.symm.trans h')

theorem State.evenTick_iff (s : State) : s.evenTick = true ↔ s.t % 2 = 0 := by
  simp [State.evenTick]

theorem State.evenTick_eq_false_iff (s : State) : s.evenTick = false ↔ s.t % 2 = 1 := by
  simp [State.evenTick]

theorem State.writebackActs_iff (s : State) :
    s.writebackActs = true ↔ s.t % 2 = 1 ∧ 7 ≤ s.t ∧ s.W.live = true := by
  rw [← s.evenTick_eq_false_iff]
  simp [State.writebackActs, and_assoc]

theorem State.memoryActs_iff (s : State) : s.memoryActs = true ↔ s.t % 2 = 0 ∧ 6 ≤ s.t ∧ s.M.live = true := by
  rw [← s.evenTick_iff]
  simp [State.memoryActs, and_assoc]

theorem State.executeActs_iff (s : State) : s.executeActs = true ↔ s.t % 2 = 0 ∧ s.E.live = true := by
  rw [← s.evenTick_iff, State.executeActs, Bool.and_eq_true]

theorem State.decodeActs_iff (s : State) : s.decodeActs = true ↔ s.t % 2 = 0 ∧ s.D.live = true := by
  rw [← s.evenTick_iff, State.decodeActs, Bool.and_eq_true]

theorem State.evenTick_congr {s s' : State} (h : s'.t = s.t) : s'.evenTick = s.evenTick := by
  rw [State.evenTick, State.evenTick, h]

/-! ### The outcome of each phase, as an inversion -/

theorem State.writebackPhase_inv {s s' : State} (h : s.writebackPhase = .next s') :
    s' = s ∨ s' = s.setTurn .rest ∨ ∃ ra, s' = (s.writeReg ra s.W.result).setTurn .rest := by
  rcases s.writebackPhase_cases with e | e | ⟨ra, e⟩
  · exact .inl (eq_of_next h e)
  · exact .inr (.inl (eq_of_next h e))
  · exact .inr (.inr ⟨ra, eq_of_next h e⟩)

theorem State.memoryPhase_inv {s s' : State} (h : s.memoryPhase = .next s') :
    s' = s ∨ ∃ s₁, MemoryEffect s s₁ ∧ s' = s₁.setTurn .rest := by
  rcases s.memoryPhase_cases with e | ⟨s₁, e, he⟩
  · exact .inl (eq_of_next h e)
  · exact .inr ⟨s₁, he, eq_of_next h e⟩

theorem State.executePhase_inv {s s' : State} (h : s.executePhase = .next s') :
    s' = s ∨ ∃ s₁, ExecuteEffect s s₁ ∧ s' = s₁.setTurn .rest := by
  rcases s.executePhase_cases with e | ⟨s₁, e, he⟩
  · exact .inl (eq_of_next h e)
  · exact .inr ⟨s₁, he, eq_of_next h e⟩

theorem State.decodePhase_eq_of_acts {s : State} (h : s.decodeActs = true) :
    s.decodePhase =
      .next ((s.latchOperands (fieldB s.D.word) (fieldC s.D.word)).setTurn .rest) := by
  have hx := exec_decode_eq (decode s.D.word) (s := s.setTurn .decode) rfl
  rw [State.setTurn_D, portB_decode, portC_decode, State.setTurn_latchOperands] at hx
  rw [State.decodePhase, if_pos h, State.giveTurn_next hx, State.setTurn_setTurn]

theorem State.decodePhase_inv {s s' : State} (h : s.decodePhase = .next s') :
    s.decodeActs = false ∧ s' = s ∨
      s.decodeActs = true ∧ s' = (s.latchOperands (fieldB s.D.word) (fieldC s.D.word)).setTurn .rest := by
  cases hact : s.decodeActs with
  | false => exact .inl ⟨rfl, by simpa [State.decodePhase, hact] using h.symm⟩
  | true => exact .inr ⟨rfl, eq_of_next h (State.decodePhase_eq_of_acts hact)⟩

theorem State.fetchPhase_inv {s s' : State} (he : s.evenTick = false) (h : s.fetchPhase = .next s') :
    s.pcInProgram = true ∧ (∃ w, s' = s.fetchWord w) ∨ s.pcInProgram = false ∧ s' = s.fetchBubble := by
  cases hp : s.pcInProgram with
  | false => exact .inr ⟨rfl, eq_of_next h (State.fetchPhase_bubble he hp)⟩
  | true =>
    cases hb : inBounds s.pc with
    | false => simp [State.fetchPhase, he, hp, State.memRead_out hb] at h
    | true => exact .inl ⟨rfl, _, eq_of_next h (State.fetchPhase_fetch he hp hb)⟩

/-! ### What each phase leaves alone -/

/-- What a phase leaves of the tick, of N and of the slots: which contexts are live, up to marks on D. Slot F is left out, for
Fetch fills it. -/
structure State.SlotsKept (s s' : State) : Prop where
  t : s'.t = s.t
  n : s'.n = s.n
  liveW : s'.W.live = s.W.live
  liveM : s'.M.live = s.M.live
  liveE : s'.E.live = s.E.live
  validD : s'.D.valid = s.D.valid
  flushD : s.D.flush = true → s'.D.flush = true

theorem State.SlotsKept.trans {s₁ s₂ s₃ : State} (h : s₁.SlotsKept s₂) (h' : s₂.SlotsKept s₃) : s₁.SlotsKept s₃ :=
  ⟨h'.t.trans h.t, h'.n.trans h.n, h'.liveW.trans h.liveW, h'.liveM.trans h.liveM, h'.liveE.trans h.liveE,
    h'.validD.trans h.validD, h'.flushD ∘ h.flushD⟩

theorem State.writebackPhase_slotsKept {s s' : State} (h : s.writebackPhase = .next s') : s.SlotsKept s' := by
  rcases State.writebackPhase_inv h with rfl | rfl | ⟨ra, rfl⟩ <;> exact ⟨rfl, rfl, rfl, rfl, rfl, rfl, id⟩

theorem State.memoryPhase_slotsKept {s s' : State} (h : s.memoryPhase = .next s') : s.SlotsKept s' := by
  rcases State.memoryPhase_inv h with rfl | ⟨s₁, rfl | ⟨-, rfl⟩ | ⟨-, v, rfl⟩ | ⟨-, k, -, rfl⟩, rfl⟩ <;>
    exact ⟨rfl, rfl, rfl, rfl, rfl, rfl, id⟩

theorem State.executePhase_slotsKept {s s' : State} (h : s.executePhase = .next s') : s.SlotsKept s' := by
  rcases State.executePhase_inv h with rfl | ⟨s₁, ⟨v, rfl⟩ | ⟨imm, rfl⟩ | rfl | rfl | ⟨a, rfl⟩, rfl⟩
  case inr.inr.inr.inr.inl => exact ⟨rfl, rfl, rfl, rfl, rfl, rfl, fun _ => rfl⟩
  case inr.inr.inr.inr.inr => exact ⟨rfl, rfl, rfl, rfl, rfl, rfl, fun _ => rfl⟩
  all_goals exact ⟨rfl, rfl, rfl, rfl, rfl, rfl, id⟩

theorem State.decodePhase_slotsKept {s s' : State} (h : s.decodePhase = .next s') : s.SlotsKept s' := by
  rcases State.decodePhase_inv h with ⟨-, rfl⟩ | ⟨-, rfl⟩ <;> exact ⟨rfl, rfl, rfl, rfl, rfl, rfl, id⟩

theorem State.fetchPhase_slotsKept {s s' : State} (he : s.evenTick = false) (h : s.fetchPhase = .next s') :
    s.SlotsKept s' := by
  rcases State.fetchPhase_inv he h with ⟨-, w, rfl⟩ | ⟨-, rfl⟩ <;> exact ⟨rfl, rfl, rfl, rfl, rfl, rfl, id⟩

theorem State.haltTest_slotsKept (s : State) : s.SlotsKept s.haltTest := by
  constructor <;> simp

/-- After Memory the registers, pc and the contexts before M are as they were. -/
theorem State.memoryPhase_frame {s s' : State} (h : s.memoryPhase = .next s') :
    s'.regs = s.regs ∧ s'.pc = s.pc ∧ s'.E = s.E ∧ s'.D = s.D ∧ s'.F = s.F := by
  rcases State.memoryPhase_inv h with rfl | ⟨s₁, rfl | ⟨-, rfl⟩ | ⟨-, v, rfl⟩ | ⟨-, k, -, rfl⟩, rfl⟩ <;>
    exact ⟨rfl, rfl, rfl, rfl, rfl⟩

theorem State.executePhase_frame {s s' : State} (h : s.executePhase = .next s') :
    s'.regs = s.regs ∧ s'.abort = s.abort := by
  rcases State.executePhase_inv h with rfl | ⟨s₁, ⟨v, rfl⟩ | ⟨imm, rfl⟩ | rfl | rfl | ⟨a, rfl⟩, rfl⟩ <;>
    exact ⟨rfl, rfl⟩

theorem State.decodePhase_frame {s s' : State} (h : s.decodePhase = .next s') :
    s'.regs = s.regs ∧ s'.pc = s.pc ∧ s'.abort = s.abort := by
  rcases State.decodePhase_inv h with ⟨-, rfl⟩ | ⟨-, rfl⟩ <;> exact ⟨rfl, rfl, rfl⟩

theorem State.fetchPhase_frame {s s' : State} (he : s.evenTick = false) (h : s.fetchPhase = .next s') :
    s'.regs = s.regs ∧ s'.D = s.D ∧ s'.abort = s.abort := by
  rcases State.fetchPhase_inv he h with ⟨-, w, rfl⟩ | ⟨-, rfl⟩ <;> exact ⟨rfl, rfl, rfl⟩

theorem State.writebackPhase_frame {s s' : State} (h : s.writebackPhase = .next s') :
    s'.pc = s.pc ∧ s'.D = s.D ∧ s'.abort = s.abort := by
  rcases State.writebackPhase_inv h with rfl | rfl | ⟨ra, rfl⟩ <;> exact ⟨rfl, rfl, rfl⟩

/-! ### The two kinds of tick, as inversions -/

/-- What an odd tick can do: Write-back, then, unless the run has aborted, Fetch and the halt test. -/
theorem step_odd_cases {s s' : State} (hr : s.running = true) (he : s.evenTick = true) (h : step s = .next s') :
    ∃ s₁, s.beginTick.writebackPhase = .next s₁ ∧ s₁.evenTick = false ∧
      (s₁.abort = true ∧ s' = s₁ ∨
        s₁.abort = false ∧ ∃ s₂, s₁.fetchPhase = .next s₂ ∧ s' = s₂.haltTest) := by
  rw [step_of_running hr, advance_odd he] at h
  obtain ⟨s₁, hw, h⟩ := andThen_eq_next h
  have ho : s₁.evenTick = false := by
    rw [State.evenTick_congr (State.writebackPhase_slotsKept hw).t, State.beginTick_evenTick, he]
    rfl
  refine ⟨s₁, hw, ho, ?_⟩
  split at h
  · rename_i ha
    cases h
    exact .inl ⟨ha, rfl⟩
  · rename_i ha
    obtain ⟨s₂, hf, h⟩ := andThen_eq_next h
    cases h
    exact .inr ⟨by simpa using ha, s₂, hf, rfl⟩

/-- What an even tick can do: Memory, then, unless the run has aborted, Execute, Decode and the halt test. -/
theorem step_even_cases {s s' : State} (hr : s.running = true) (he : s.evenTick = false) (h : step s = .next s') :
    ∃ s₁, s.beginTick.memoryPhase = .next s₁ ∧
      (s₁.abort = true ∧ s' = s₁ ∨
        s₁.abort = false ∧ ∃ s₂ s₃, s₁.executePhase = .next s₂ ∧ s₂.decodePhase = .next s₃ ∧ s' = s₃.haltTest) := by
  rw [step_of_running hr, advance_even he] at h
  obtain ⟨s₁, hm, h⟩ := andThen_eq_next h
  refine ⟨s₁, hm, ?_⟩
  split at h
  · rename_i ha
    cases h
    exact .inl ⟨ha, rfl⟩
  · rename_i ha
    obtain ⟨s₂, hx, h⟩ := andThen_eq_next h
    obtain ⟨s₃, hd, h⟩ := andThen_eq_next h
    cases h
    exact .inr ⟨by simpa using ha, s₂, s₃, hx, hd, rfl⟩

/-- After the tick and the copies, a whole step leaves the tick and the slots as each of its phases does. -/
theorem step_slotsKept {s s' : State} (hr : s.running = true) (h : step s = .next s') : s.beginTick.SlotsKept s' := by
  cases he : s.evenTick with
  | true =>
    obtain ⟨s₁, hw, ho, ⟨-, rfl⟩ | ⟨-, s₂, hf, rfl⟩⟩ := step_odd_cases hr he h
    · exact State.writebackPhase_slotsKept hw
    · exact ((State.writebackPhase_slotsKept hw).trans (State.fetchPhase_slotsKept ho hf)).trans s₂.haltTest_slotsKept
  | false =>
    obtain ⟨s₁, hm, ⟨-, rfl⟩ | ⟨-, s₂, s₃, hx, hd, rfl⟩⟩ := step_even_cases hr he h
    · exact State.memoryPhase_slotsKept hm
    · exact (((State.memoryPhase_slotsKept hm).trans (State.executePhase_slotsKept hx)).trans
        (State.decodePhase_slotsKept hd)).trans s₃.haltTest_slotsKept

theorem step_t {s s' : State} (hr : s.running = true) (h : step s = .next s') : s'.t = s.t + 1 :=
  (step_slotsKept hr h).t.trans s.beginTick_t

/-! ### Who writes a register -/

/-- Write-back changes the registers only for a live context of the write-back set (R121, R217). -/
theorem State.writebackPhase_regs {s s' : State} (h : s.writebackPhase = .next s') :
    s'.regs = s.regs ∨
      s.writebackActs = true ∧ s.W.dec.op ∈ [0#4, 1#4, 2#4, 3#4, 5#4, 6#4, 8#4, 9#4, 10#4] ∧
        s'.regs = (s.writeReg s.W.dec.rA s.W.result).regs := by
  cases hact : s.writebackActs with
  | false => exact .inl (congrArg State.regs (eq_of_next h (if_neg (by simp [hact]))))
  | true =>
    have hx := exec_writeback_eq s.W.dec.instr (s := s.setTurn .writeback) rfl
    have hs' := eq_of_next h (((if_pos hact).trans (State.giveTurn_next hx)))
    cases hd : wbDest s.W.dec.instr with
    | none => exact .inl (by rw [hs', hd]; rfl)
    | some ra =>
      obtain ⟨hop, rfl⟩ := opcode_and_rA_of_wbDest hd
      exact .inr ⟨rfl, hop, by rw [hs', hd]; rfl⟩

/-- Settles O35: of the phases only Write-back writes registers. -/
theorem registersChangeOnlyAtWriteback : Obligations.RegistersChangeOnlyAtWriteback := by
  intro s s' h
  cases hr : s.running with
  | false =>
    rw [step_of_not_running hr] at h
    cases h
    exact .inl rfl
  | true =>
    have ht := step_t hr h
    cases he : s.evenTick with
    | false =>
      obtain ⟨s₁, hm, hrest⟩ := step_even_cases hr he h
      have hm := (State.memoryPhase_frame hm).1.trans s.beginTick_regs
      rcases hrest with ⟨-, rfl⟩ | ⟨-, s₂, s₃, hx, hd, rfl⟩
      · exact .inl hm
      · have hx := (State.executePhase_frame hx).1
        have hd := (State.decodePhase_frame hd).1
        exact .inl (by rw [State.haltTest_regs, hd, hx, hm])
    | true =>
      obtain ⟨s₁, hw, ho, hrest⟩ := step_odd_cases hr he h
      have hregs : s'.regs = s₁.regs := by
        rcases hrest with ⟨-, rfl⟩ | ⟨-, s₂, hf, rfl⟩
        · rfl
        · rw [State.haltTest_regs, (State.fetchPhase_frame ho hf).1]
      rcases State.writebackPhase_regs hw with hw | ⟨hact, hop, hw⟩
      · exact .inl (by rw [hregs, hw, State.beginTick_regs])
      · rw [State.writebackActs_iff, State.beginTick_W, State.beginTick_t, ← ht] at hact
        obtain ⟨hodd, h7, hlive⟩ := hact
        rw [State.beginTick_W] at hop hw
        exact .inr ⟨rfl, hodd, h7, hlive, hop, by rw [hregs, hw]; simp⟩

/-! ### Who writes pc -/

/-- The Execute turn changes pc only for a JEQ and a JMP that redirect it (R182, R186). -/
theorem exec_execute_pc {i : Instr} {s s' : State} (ht : s.turn = .execute) (h : exec i s = .next s') :
    s'.pc = s.pc ∨
      (∃ ra rb imm, i = .jeq ra rb imm ∧ s.readReg ra = s.readReg rb ∧ 1 < imm.toInt ∧ s'.pc = s.E.pc + imm) ∨
      ∃ addr, i = .jmp addr ∧ s'.pc = s.jumpTarget addr ∧ s'.pc ≠ s.E.pc + 1 ∧ s'.pc ≠ s.E.pc := by
  cases i with
  | jeq ra rb imm =>
    simp only [exec, execJeq, ht, Outcome.next.injEq] at h
    subst h
    unfold State.jeqTurn
    split
    · split
      · exact .inl rfl
      · split
        · exact .inr (.inl ⟨ra, rb, imm, rfl, ‹_›, ‹_›, rfl⟩)
        · exact .inl rfl
    · exact .inl rfl
  | jmp addr =>
    simp only [exec, execJmp, ht, Outcome.next.injEq] at h
    subst h
    unfold State.jmpTurn
    split
    · exact .inl rfl
    · split
      · exact .inr (.inr ⟨addr, rfl, rfl, ‹_›, ‹_›⟩)
      · exact .inl rfl
  | _ =>
    simp only [exec, execAdd, execSub, execMul, execMovi, execAnd, execXori, execLsl, execLsr, execMovr, execMovm,
      execUndef, State.valueTurns, ht, Outcome.next.injEq] at h
    subst h
    exact .inl rfl

/-- Execute changes pc only for a live JEQ or JMP in E that redirects it. -/
theorem State.executePhase_pc {s s' : State} (h : s.executePhase = .next s') :
    s'.pc = s.pc ∨
      (s.E.live = true ∧ s.E.dec.op = 4#4 ∧ s.readReg s.E.dec.rA = s.readReg s.E.dec.rB ∧ 1 < s.E.dec.imm.toInt ∧
        s'.pc = s.E.pc + s.E.dec.imm) ∨
      (s.E.live = true ∧ s.E.dec.op = 7#4 ∧ s'.pc = s.jumpTarget s.E.dec.addr ∧ s'.pc ≠ s.E.pc + 1 ∧
        s'.pc ≠ s.E.pc) := by
  cases hact : s.executeActs with
  | false => exact .inl (congrArg State.pc (eq_of_next h (if_neg (by simp [hact]))))
  | true =>
    have hlive := (s.executeActs_iff.mp hact).2
    rw [State.executePhase, if_pos hact] at h
    obtain ⟨s₁, hx, h⟩ := andThen_eq_next h
    cases h
    rcases exec_execute_pc rfl hx with hpc | ⟨ra, rb, imm, hi, heq, himm, hpc⟩ | ⟨addr, hi, hpc, hne⟩
    · exact .inl hpc
    · obtain ⟨hop, rfl, rfl, rfl⟩ := fields_of_instr_eq_jeq hi
      exact .inr (.inl ⟨hlive, hop, heq, himm, hpc⟩)
    · obtain ⟨hop, rfl⟩ := fields_of_instr_eq_jmp hi
      exact .inr (.inr ⟨hlive, hop, hpc, hne⟩)

theorem State.jumpTarget_congr {s s' : State} (h : s'.pc = s.pc) (addr : Addr) : s'.jumpTarget addr = s.jumpTarget addr := by
  rw [State.jumpTarget, State.jumpTarget, h]

/-- Settles O37: of the phases only Fetch and Execute write pc. -/
theorem pcChangesOnlyByFetchOrRedirect : Obligations.PcChangesOnlyByFetchOrRedirect := by
  intro s s' h
  cases hr : s.running with
  | false =>
    rw [step_of_not_running hr] at h
    cases h
    exact .inl rfl
  | true =>
    have ht := step_t hr h
    cases he : s.evenTick with
    | true =>
      have hodd := s.evenTick_iff.mp he
      obtain ⟨s₁, hw, ho, hrest⟩ := step_odd_cases hr he h
      have hn := (State.writebackPhase_slotsKept hw).n.trans s.beginTick_n
      have hpc := (State.writebackPhase_frame hw).1.trans s.beginTick_pc
      rcases hrest with ⟨-, rfl⟩ | ⟨-, s₂, hf, rfl⟩
      · exact .inl hpc
      · rw [State.haltTest_pc]
        rcases State.fetchPhase_inv ho hf with ⟨hp, w, rfl⟩ | ⟨-, rfl⟩
        · simp only [State.pcInProgram, hn, hpc, decide_eq_true_eq] at hp
          exact .inr (.inl ⟨rfl, by omega, hp, by rw [State.fetchWord_pc, hpc]⟩)
        · exact .inl hpc
    | false =>
      have hodd := s.evenTick_eq_false_iff.mp he
      obtain ⟨s₁, hm, hrest⟩ := step_even_cases hr he h
      obtain ⟨hregs, hpc, hE, -, -⟩ := State.memoryPhase_frame hm
      rw [State.beginTick_regs] at hregs
      rw [State.beginTick_pc] at hpc
      rw [State.beginTick_E, he, if_neg Bool.false_ne_true] at hE
      rcases hrest with ⟨-, rfl⟩ | ⟨-, s₂, s₃, hx, hd, rfl⟩
      · exact .inl hpc
      · obtain ⟨-, hd, -⟩ := State.decodePhase_frame hd
        have hx := State.executePhase_pc hx
        rw [← hd, hE, State.readReg_congr hregs, State.readReg_congr hregs, State.jumpTarget_congr hpc,
          ← State.haltTest_pc] at hx
        rcases hx with hx | ⟨hlive, hop, heq, himm, hx⟩ | ⟨hlive, hop, hx, hne⟩
        · exact .inl (hx.trans hpc)
        · exact .inr (.inr (.inl ⟨rfl, by omega, hlive, hop, heq, himm, hx⟩))
        · exact .inr (.inr (.inr ⟨rfl, by omega, hlive, hop, hx, hne⟩))

end Sys2Proof.Machine

/-! ### The invariant through an advance -/

namespace Sys2Proof.Machine

open Host (Outcome)

/-- The tick and the copies before an odd tick (R214). -/
theorem State.beginTick_odd {s : State} (he : s.evenTick = true) :
    s.beginTick = { s with t := s.t + 1, W := s.M, M := s.E } :=
  if_neg (by rw [State.evenTick_succ (s := s) rfl, he]; decide)

/-- The tick and the copies before an even tick (R214). -/
theorem State.beginTick_even {s : State} (he : s.evenTick = false) :
    s.beginTick = { s with t := s.t + 1, W := s.M, M := s.E, E := s.D, D := s.F } :=
  if_pos (by rw [State.evenTick_succ (s := s) rfl, he]; decide)

/-- The invariant in the middle of an advance: D's context may still wait for its Decode turn, the run has not halted, and it
goes on unless it has just aborted. -/
structure State.Advancing (s : State) : Prop where
  zeroReg : s.regs[0] = 0
  memWf : Memory.wf s.mem = true
  count : s.n.toNat ≤ Config.maxCount
  turn : s.turn = .rest
  halted : s.halted = false
  running : s.running = !s.abort
  abortClear : s.abort = false → s.abortKind = 0 ∧ s.abortAddr = 0 ∧ s.abortPc = 0
  abortSet : s.abort = true → (s.abortKind = 1 ∨ s.abortKind = 2) ∧ inBounds s.abortAddr = false
  pcHigh : s.pc.toNat < 2 ^ 28
  ownPc : s.F.ownPcOk ∧ s.D.ownPcOk ∧ s.E.ownPcOk ∧ s.M.ownPcOk ∧ s.W.ownPcOk
  decoded : s.E.decoded ∧ s.M.decoded ∧ s.W.decoded
  fill : (s.F.valid = true → 1 ≤ s.t) ∧ (s.D.valid = true → 2 ≤ s.t) ∧ (s.E.valid = true → 4 ≤ s.t) ∧
    (s.M.valid = true → 5 ≤ s.t) ∧ (s.W.valid = true → 6 ≤ s.t)

/-- The copies of a tick: every context moves with its own pc and its decoded fields, and no slot fills early (R214, R224). -/
theorem State.Inv.beginTick {s : State} (h : s.Inv) (hr : s.running = true) : s.beginTick.Advancing := by
  obtain ⟨hhalt, habort⟩ := h.runningClear hr
  have hrun : s.running = !s.abort := by rw [hr, habort]; rfl
  obtain ⟨pF, pD, pE, pM, -⟩ := h.ownPc
  obtain ⟨dD, dE, dM, -⟩ := h.decoded
  obtain ⟨fF, fD, fE, fM, -⟩ := h.fill
  have later : ∀ {v : Bool} {k : Nat}, (v = true → k ≤ s.t) → v = true → k ≤ s.t + 1 :=
    fun f hv => (f hv).trans (Nat.le_succ _)
  have next : ∀ {v : Bool} {k : Nat}, (v = true → k ≤ s.t) → v = true → k + 1 ≤ s.t + 1 :=
    fun f hv => Nat.succ_le_succ (f hv)
  cases he : s.evenTick with
  | true =>
    rw [State.beginTick_odd he]
    exact { h with
      halted := hhalt, running := hrun
      ownPc := ⟨pF, pD, pE, pE, pM⟩
      decoded := ⟨dE, dE, dM⟩
      fill := ⟨later fF, later fD, later fE, next fE, next fM⟩ }
  | false =>
    rw [State.beginTick_even he]
    have hodd := s.evenTick_eq_false_iff.mp he
    have fDE : s.D.valid = true → 4 ≤ s.t + 1 := fun hv => by
      have := fD hv
      omega
    exact { h with
      halted := hhalt, running := hrun
      ownPc := ⟨pF, pF, pD, pE, pM⟩
      decoded := ⟨dD habort, dE, dM⟩
      fill := ⟨later fF, next fF, fDE, next fE, next fM⟩ }

/-- The invariant at the end of an advance, before the halt test. -/
theorem State.Advancing.inv {s : State} (h : s.Advancing) (hD : s.abort = false → s.D.decoded) : s.Inv where
  zeroReg := h.zeroReg
  memWf := h.memWf
  count := h.count
  turn := h.turn
  exclusive := by simp [h.halted]
  runningClear hr := by simpa [h.running, h.halted] using hr
  abortClear := h.abortClear
  abortSet := h.abortSet
  idle hr _ ha := by simp [h.running, ha] at hr
  pcHigh := h.pcHigh
  ownPc := h.ownPc
  decoded := ⟨hD, h.decoded⟩
  fill := h.fill

/-- The halt test keeps the invariant of a running machine (R230). -/
theorem State.Inv.haltTest {s : State} (h : s.Inv) (hr : s.running = true) : s.haltTest.Inv := by
  obtain ⟨-, ha⟩ := h.runningClear hr
  unfold State.haltTest
  split
  · exact { h with
      exclusive := by simp [State.halt, ha]
      runningClear := by simp [State.halt]
      idle := by simp [State.halt] }
  · exact h

/-! ### Each phase keeps it -/

theorem State.Advancing.writebackPhase {s s' : State} (h : s.Advancing) (hw : s.writebackPhase = .next s') :
    s'.Advancing := by
  rcases State.writebackPhase_inv hw with rfl | rfl | ⟨ra, rfl⟩
  · exact h
  · exact { h with turn := rfl }
  · exact { h with turn := rfl, zeroReg := s.writeReg_regs_zero ra s.W.result }

theorem State.Advancing.memoryPhase {s s' : State} (h : s.Advancing) (hm : s.memoryPhase = .next s') : s'.Advancing := by
  rcases State.memoryPhase_inv hm with rfl | ⟨s₁, rfl | ⟨-, rfl⟩ | ⟨hb, v, rfl⟩ | ⟨hb, k, hk, rfl⟩, rfl⟩
  · exact h
  · exact { h with turn := rfl }
  · exact { h with turn := rfl }
  · exact { h with turn := rfl, memWf := Memory.write_wf h.memWf ((inBounds_iff _).mp hb) v }
  · exact { h with
      turn := rfl
      running := rfl
      abortClear := fun ha => absurd ha (by simp)
      abortSet := fun _ => ⟨hk, hb⟩ }

/-- Own pc and a decoded immediate stay far below 2^28. -/
theorem jeqTarget_lt {p : Word} {w : Word} (hp : p.toNat ≤ Config.memWords) (hi : 1 < (fieldImm w).toInt) :
    (p + fieldImm w).toNat < 2 ^ 28 := by
  have hfit : immFits (fieldImm w) = true := immFits_sext18 _
  simp only [immFits, Bool.and_eq_true, decide_eq_true_eq] at hfit
  have hint := BitVec.toInt_eq_toNat_cond (fieldImm w)
  have hp : p.toNat ≤ 2048 := hp
  rw [BitVec.toNat_add]
  split at hint <;> omega

/-- JMP keeps pc[31:28], which is 0 (R187). -/
theorem State.jumpTarget_lt {s : State} (h : s.pc.toNat < 2 ^ 28) (addr : Addr) :
    (s.jumpTarget addr).toNat < 2 ^ 28 := by
  have hhigh : s.pc.extractLsb' 28 4 = 0#4 := by
    apply BitVec.eq_of_toNat_eq
    rw [BitVec.extractLsb'_toNat, Nat.shiftRight_eq_div_pow, Nat.div_eq_of_lt h]
    rfl
  rw [State.jumpTarget, hhigh, BitVec.toNat_append]
  simpa using addr.isLt

/-- Wherever Execute sends pc, its bits 31:28 stay 0. -/
theorem State.Advancing.executePhase_pcHigh {s s' : State} (h : s.Advancing) (hx : s.executePhase = .next s') :
    s'.pc.toNat < 2 ^ 28 := by
  rcases State.executePhase_pc hx with hpc | ⟨hlive, -, -, himm, hpc⟩ | ⟨-, -, hpc, -⟩
  · rw [hpc]
    exact h.pcHigh
  · obtain ⟨-, -, pE, -⟩ := h.ownPc
    have hdec : s.E.dec.imm = fieldImm s.E.word := congrArg Fields.imm (h.decoded.1 hlive)
    have hown := (pE ((Context.live_iff _).mp hlive).1).2
    rw [hdec] at himm hpc
    rw [hpc]
    exact jeqTarget_lt hown himm
  · rw [hpc]
    exact s.jumpTarget_lt h.pcHigh _

theorem State.Advancing.executePhase {s s' : State} (h : s.Advancing) (hx : s.executePhase = .next s') :
    s'.Advancing := by
  have hpc := h.executePhase_pcHigh hx
  rcases State.executePhase_inv hx with rfl | ⟨s₁, ⟨v, rfl⟩ | ⟨imm, rfl⟩ | rfl | rfl | ⟨a, rfl⟩, rfl⟩
  · exact h
  all_goals exact { h with turn := rfl, pcHigh := hpc }

/-- Decode keeps it, and on an even tick leaves a decoded context in D, if a live one. -/
theorem State.Advancing.decodePhase {s s' : State} (h : s.Advancing) (he : s.evenTick = true)
    (hd : s.decodePhase = .next s') : s'.Advancing ∧ s'.D.decoded := by
  rcases State.decodePhase_inv hd with ⟨hact, rfl⟩ | ⟨-, rfl⟩
  · refine ⟨h, fun hlive => ?_⟩
    rw [(State.decodeActs_iff _).mpr ⟨(State.evenTick_iff _).mp he, hlive⟩] at hact
    cases hact
  · exact ⟨{ h with turn := rfl }, fun _ => rfl⟩

theorem State.Advancing.fetchPhase {s s' : State} (h : s.Advancing) (he : s.evenTick = false)
    (hf : s.fetchPhase = .next s') : s'.Advancing := by
  obtain ⟨-, pOthers⟩ := h.ownPc
  obtain ⟨-, fOthers⟩ := h.fill
  have hodd := s.evenTick_eq_false_iff.mp he
  rcases State.fetchPhase_inv he hf with ⟨hp, w, rfl⟩ | ⟨-, rfl⟩
  · simp only [State.pcInProgram, decide_eq_true_eq] at hp
    have hn : s.n.toNat ≤ 2048 := h.count
    have hpc : (s.pc + 1).toNat = s.pc.toNat + 1 := by
      rw [BitVec.toNat_add_of_lt] <;> simp
      omega
    exact { h with
      pcHigh := by rw [State.fetchWord_pc, hpc]; omega
      ownPc := ⟨fun _ => by simp only [State.fetchWord_F, hpc, Config.memWords]; omega, pOthers⟩
      fill := ⟨fun _ => by rw [State.fetchWord_t]; omega, fOthers⟩ }
  · exact { h with
      ownPc := ⟨fun hv => by simp at hv, pOthers⟩
      fill := ⟨fun hv => by simp at hv, fOthers⟩ }

theorem State.Advancing.inv_haltTest {s : State} (h : s.Advancing) (ha : s.abort = false) (hD : s.D.decoded) :
    s.haltTest.Inv :=
  (h.inv fun _ => hD).haltTest (by rw [h.running, ha]; rfl)

/-- Settles O42: the phases of an advance in their order. -/
theorem stepKeepsInv : Obligations.StepKeepsInv := by
  intro s s' hi h
  cases hr : s.running with
  | false =>
    rw [step_of_not_running hr] at h
    cases h
    exact hi
  | true =>
    have h₀ := hi.beginTick hr
    obtain ⟨-, habort⟩ := hi.runningClear hr
    cases he : s.evenTick with
    | true =>
      obtain ⟨s₁, hw, ho, hrest⟩ := step_odd_cases hr he h
      have h₁ := h₀.writebackPhase hw
      obtain ⟨-, hD, -⟩ := State.writebackPhase_frame hw
      rcases hrest with ⟨ha, rfl⟩ | ⟨ha, s₂, hf, rfl⟩
      · exact h₁.inv fun ha' => absurd (ha.symm.trans ha') (by simp)
      · obtain ⟨-, hD', ha'⟩ := State.fetchPhase_frame ho hf
        refine (h₁.fetchPhase ho hf).inv_haltTest (ha'.trans ha) ?_
        rw [hD', hD, State.beginTick_D, he, if_pos rfl]
        exact hi.decoded.1 habort
    | false =>
      obtain ⟨s₁, hm, hrest⟩ := step_even_cases hr he h
      have h₁ := h₀.memoryPhase hm
      rcases hrest with ⟨ha, rfl⟩ | ⟨ha, s₂, s₃, hx, hd, rfl⟩
      · exact h₁.inv fun ha' => absurd (ha.symm.trans ha') (by simp)
      · have heven : s₂.evenTick = true := by
          rw [State.evenTick_congr (State.executePhase_slotsKept hx).t,
            State.evenTick_congr (State.memoryPhase_slotsKept hm).t, State.beginTick_evenTick, he]
          rfl
        obtain ⟨h₃, hD⟩ := (h₁.executePhase hx).decodePhase heven hd
        obtain ⟨-, hax⟩ := State.executePhase_frame hx
        obtain ⟨-, -, had⟩ := State.decodePhase_frame hd
        exact h₃.inv_haltTest (had.trans (hax.trans ha)) hD

/-! ### Reset and the host's ports keep the invariant -/

/-- Settles O43. -/
theorem resetHasInv : Obligations.ResetHasInv where
  zeroReg := rfl
  memWf := State.reset_mem_wf
  count := Nat.zero_le _
  turn := rfl
  exclusive := by simp [State.reset]
  runningClear := by simp [State.reset]
  abortClear _ := ⟨rfl, rfl, rfl⟩
  abortSet := by simp [State.reset]
  idle _ _ _ := ⟨rfl, rfl, rfl, rfl, rfl, rfl, rfl⟩
  pcHigh := by decide
  ownPc := by simp [State.reset, Context.ownPcOk, Context.bubble]
  decoded := by simp [State.reset, Context.decoded]
  fill := by simp [State.reset, Context.bubble]

theorem State.Inv.hostLoad {s : State} (h : s.Inv) (a : BitVec 11) (v : Word) : (s.hostLoad a v).Inv :=
  { h with memWf := Memory.write_wf h.memWf a.isLt v }

theorem State.Inv.hostSeed {s : State} (h : s.Inv) (i : RegIdx) (v : Word) : (s.hostSeed i v).Inv :=
  { h with zeroReg := s.writeReg_regs_zero i v }

theorem State.Inv.hostCount {s : State} (h : s.Inv) (v : BitVec 12) : (s.hostCount v).Inv := by
  unfold State.hostCount
  split
  · exact { h with count := ‹_› }
  · exact h

theorem State.Inv.hostStart {s : State} (h : s.Inv) : s.hostStart.Inv := by
  unfold State.hostStart
  split
  · exact h
  · rename_i hended
    have hclear : s.halted = false ∧ s.abort = false := by simpa using hended
    have hstarted : State.Inv { s with running := true } :=
      { h with
        runningClear := fun _ => hclear
        idle := fun hr => absurd hr (by simp) }
    exact hstarted.haltTest rfl

/-- A port that is asserted or not keeps the invariant if its write does. -/
theorem State.Inv.ite {c : Prop} [Decidable c] {s s' : State} (h : s.Inv) (h' : s'.Inv) : (if c then s else s').Inv := by
  split <;> assumption

theorem State.Inv.applyPorts {s : State} (h : s.Inv) (p : Inputs) : (s.applyPorts p).Inv := by
  have hload := State.Inv.ite (c := p.ldWe = true) (h.hostLoad p.ldAddr p.ldData) h
  have hseed := State.Inv.ite (c := p.seedWe = true) (hload.hostSeed p.seedIdx p.seedData) hload
  have hcount := State.Inv.ite (c := p.nWe = true) (hseed.hostCount p.nData) hseed
  exact State.Inv.ite hcount.hostStart hcount

/-- Settles O44. -/
theorem clockEdgeKeepsInv : Obligations.ClockEdgeKeepsInv := by
  intro p s s' hi h
  cases hp : p.rst with
  | true =>
    rw [clockEdge_of_rst hp] at h
    cases h
    exact resetHasInv
  | false =>
    cases hr : s.running with
    | true => exact stepKeepsInv s s' hi ((clockEdge_of_running hp hr).symm.trans h)
    | false =>
      rw [clockEdge_of_not_running hp hr] at h
      cases h
      exact hi.applyPorts p

/-! ### No fetch leaves memory -/

theorem State.writebackPhase_next (s : State) : ∃ s', s.writebackPhase = .next s' := by
  rcases s.writebackPhase_cases with e | e | ⟨_, e⟩ <;> exact ⟨_, e⟩

theorem State.memoryPhase_next (s : State) : ∃ s', s.memoryPhase = .next s' := by
  rcases s.memoryPhase_cases with e | ⟨_, e, -⟩ <;> exact ⟨_, e⟩

theorem State.executePhase_next (s : State) : ∃ s', s.executePhase = .next s' := by
  rcases s.executePhase_cases with e | ⟨_, e, -⟩ <;> exact ⟨_, e⟩

theorem State.decodePhase_next (s : State) : ∃ s', s.decodePhase = .next s' := by
  rcases s.decodePhase_cases with e | ⟨_, _, e⟩ <;> exact ⟨_, e⟩

/-- Fetch reads below N, so inside memory if N is at most 2048 (R38, R51). -/
theorem State.fetchPhase_next {s : State} (hn : s.n.toNat ≤ Config.maxCount) : ∃ s', s.fetchPhase = .next s' := by
  cases he : s.evenTick with
  | true => exact ⟨_, State.fetchPhase_even he⟩
  | false =>
    cases hp : s.pcInProgram with
    | true => exact ⟨_, State.fetchPhase_fetch he hp (State.inBounds_of_pcInProgram hn hp)⟩
    | false => exact ⟨_, State.fetchPhase_bubble he hp⟩

/-- With a count of at most 2048 every step answers a next state. -/
theorem step_next {s : State} (hn : s.n.toNat ≤ Config.maxCount) : ∃ s', step s = .next s' := by
  cases hr : s.running with
  | false => exact ⟨s, step_of_not_running hr⟩
  | true =>
    rw [step_of_running hr]
    cases he : s.evenTick with
    | true =>
      obtain ⟨s₁, hw⟩ := s.beginTick.writebackPhase_next
      have hn₁ : s₁.n = s.n := (State.writebackPhase_slotsKept hw).n.trans s.beginTick_n
      obtain ⟨s₂, hf⟩ := State.fetchPhase_next (s := s₁) (by rwa [hn₁])
      rw [advance_odd he, hw, andThen_next, hf, andThen_next]
      split <;> exact ⟨_, rfl⟩
    | false =>
      obtain ⟨s₁, hm⟩ := s.beginTick.memoryPhase_next
      obtain ⟨s₂, hx⟩ := s₁.executePhase_next
      obtain ⟨s₃, hd⟩ := s₂.decodePhase_next
      rw [advance_even he, hm, andThen_next, hx, andThen_next, hd, andThen_next]
      split <;> exact ⟨_, rfl⟩

/-- Settles O45, by induction on the number of steps. -/
theorem invNeverFaults : Obligations.InvNeverFaults := by
  intro s hi k r
  induction k generalizing s with
  | zero => simp
  | succ k ih =>
    obtain ⟨s', h⟩ := step_next hi.count
    rw [runTicks_succ, h, andThen_next]
    exact ih s' (stepKeepsInv s s' hi h)

/-! ### The event strobes -/

/-- On an odd tick without an abort, F's context is valid exactly when pc was part of the program (R222, R223). -/
theorem step_odd_F_valid {s s' : State} (hr : s.running = true) (ha : s.abort = false) (he : s.evenTick = true)
    (h : step s = .next s') : s'.F.valid = true ↔ s.pc.toNat < s.n.toNat := by
  obtain ⟨s₁, hw, ho, hrest⟩ := step_odd_cases hr he h
  obtain ⟨hpc, -, habort⟩ := State.writebackPhase_frame hw
  have hn := (State.writebackPhase_slotsKept hw).n
  rw [State.beginTick_abort, ha] at habort
  rcases hrest with ⟨ha', -⟩ | ⟨-, s₂, hf, rfl⟩
  · rw [habort] at ha'
    cases ha'
  · have hp : s₁.pcInProgram = true ↔ s.pc.toNat < s.n.toNat := by
      simp [State.pcInProgram, hpc, hn]
    rw [← hp, State.haltTest_F]
    rcases State.fetchPhase_inv ho hf with ⟨hp', w, rfl⟩ | ⟨hp', rfl⟩ <;> simp [hp']

/-- Settles O41: each strobe is read off the slots, and a step leaves them as the copies made them. -/
theorem traceStrobesTellWhoActed : Obligations.TraceStrobesTellWhoActed := by
  intro s s' hi hr h
  have ht := step_t hr h
  have kept := step_slotsKept hr h
  have hparity := State.evenTick_succ ht
  obtain ⟨-, habort⟩ := hi.runningClear hr
  have hW : s'.W.live = s.M.live := by rw [kept.liveW, State.beginTick_W]
  have hM : s'.M.live = s.E.live := by rw [kept.liveM, State.beginTick_M]
  refine ⟨?fetch, ?writeback, ?memory, ?execute, ?decode⟩
  case writeback =>
    rw [show s'.trace.evWriteback = s'.writebackActs from rfl, State.writebackActs_iff, ht, hW]
    exact and_congr (by omega) (and_congr (by omega) Iff.rfl)
  case memory =>
    rw [show s'.trace.evMemory = s'.memoryActs from rfl, State.memoryActs_iff, ht, hM]
    exact and_congr (by omega) (and_congr (by omega) Iff.rfl)
  all_goals cases he : s.evenTick
  case fetch.true =>
    have hF := step_odd_F_valid hr habort he h
    simpa [State.trace, hparity, he, s.evenTick_iff.mp he] using hF
  case execute.false =>
    have hE : s'.E.live = s.D.live := by rw [kept.liveE, State.beginTick_E, he, if_neg Bool.false_ne_true]
    simp [State.trace, State.executeActs, hparity, he, hE, s.evenTick_eq_false_iff.mp he]
  case decode.false =>
    have hD : s.beginTick.D = s.F := by rw [State.beginTick_D, he, if_neg Bool.false_ne_true]
    have hvalid := kept.validD
    have hflush := kept.flushD
    rw [hD] at hvalid hflush
    have hlive : s'.D.live = true ↔ s.F.live = true ∧ s'.D.flush = false := by
      rw [Context.live_iff, Context.live_iff, hvalid]
      cases hF : s.F.flush with
      | false => simp
      | true => simp [hflush hF]
    simp [State.trace, State.decodeActs, hparity, he, hlive, s.evenTick_eq_false_iff.mp he]
  case fetch.false => simp [State.trace, hparity, he, s.evenTick_eq_false_iff.mp he]
  case execute.true => simp [State.trace, State.executeActs, hparity, he, s.evenTick_iff.mp he]
  case decode.true => simp [State.trace, State.decodeActs, hparity, he, s.evenTick_iff.mp he]

end Sys2Proof.Machine

/-! ### Runs from states equal but for dead contexts -/

namespace Sys2Proof.Machine

open Host (Outcome)

/-! ### Contexts equal or both dead -/

theorem Context.SameIfLive.live_eq {c c' : Context} (h : c.SameIfLive c') : c.live = c'.live := by
  rcases h with rfl | ⟨h, h'⟩
  · rfl
  · rw [h, h']

theorem Context.SameIfLive.eq_of_live {c c' : Context} (h : c.SameIfLive c') (hl : c.live = true) : c = c' := by
  rcases h with h | ⟨h, -⟩
  · exact h
  · rw [h] at hl
    cases hl

theorem Context.sameIfLive_flushed (c c' : Context) :
    Context.SameIfLive { c with flush := true } { c' with flush := true } :=
  .inr ⟨c.live_flushed, c'.live_flushed⟩

theorem Context.sameIfLive_invalid (c c' : Context) :
    Context.SameIfLive { c with valid := false } { c' with valid := false } :=
  .inr ⟨c.live_invalid, c'.live_invalid⟩

namespace State.SameUpToDead

variable {s s' : State}

/-! ### The operations on the state keep the relation -/

theorem readReg (h : s.SameUpToDead s') (i : RegIdx) : s.readReg i = s'.readReg i :=
  State.readReg_congr h.regs i

theorem jumpTarget (h : s.SameUpToDead s') (addr : Addr) : s.jumpTarget addr = s'.jumpTarget addr :=
  State.jumpTarget_congr h.pc addr

theorem evenTick (h : s.SameUpToDead s') : s.evenTick = s'.evenTick := State.evenTick_congr h.t

theorem pcInProgram (h : s.SameUpToDead s') : s.pcInProgram = s'.pcInProgram := by
  rw [State.pcInProgram, State.pcInProgram, h.pc, h.n]

theorem setTurn (h : s.SameUpToDead s') (u : Turn) : (s.setTurn u).SameUpToDead (s'.setTurn u) :=
  { h with turn := rfl }

theorem writeReg (h : s.SameUpToDead s') (i : RegIdx) (v : Word) : (s.writeReg i v).SameUpToDead (s'.writeReg i v) :=
  { h with regs := by rw [State.writeReg_regs, State.writeReg_regs, h.regs] }

theorem latchOperands (h : s.SameUpToDead s') (hD : s.D = s'.D) (rb rc : RegIdx) :
    (s.latchOperands rb rc).SameUpToDead (s'.latchOperands rb rc) :=
  { h with slotD := .inl (by simp only [State.latchOperands_D, hD, h.readReg]) }

theorem setResult (h : s.SameUpToDead s') (hE : s.E = s'.E) (v : Word) :
    (s.setResult v).SameUpToDead (s'.setResult v) :=
  { h with slotE := .inl (by simp only [State.setResult_E, hE]) }

theorem setEa (h : s.SameUpToDead s') (hE : s.E = s'.E) (imm : Word) : (s.setEa imm).SameUpToDead (s'.setEa imm) :=
  { h with slotE := .inl (by simp only [State.setEa_E, hE]) }

theorem markD (h : s.SameUpToDead s') : s.markD.SameUpToDead s'.markD :=
  { h with slotD := Context.sameIfLive_flushed _ _ }

theorem markF (h : s.SameUpToDead s') : s.markF.SameUpToDead s'.markF :=
  { h with slotF := Context.sameIfLive_flushed _ _ }

theorem redirect (h : s.SameUpToDead s') (a : Word) : (s.redirect a).SameUpToDead (s'.redirect a) :=
  { h with pc := rfl }

theorem setLoaded (h : s.SameUpToDead s') (hM : s.M = s'.M) (v : Word) :
    (s.setLoaded v).SameUpToDead (s'.setLoaded v) :=
  { h with slotM := .inl (by simp only [State.setLoaded_M, hM]) }

theorem storeWord (h : s.SameUpToDead s') (a v : Word) : (s.storeWord a v).SameUpToDead (s'.storeWord a v) :=
  { h with mem := by rw [State.storeWord_mem, State.storeWord_mem, h.mem] }

theorem raiseAbort (h : s.SameUpToDead s') (hM : s.M = s'.M) (k : BitVec 2) :
    (s.raiseAbort k).SameUpToDead (s'.raiseAbort k) :=
  { h with
    running := rfl, abort := rfl, abortKind := rfl
    abortAddr := congrArg Context.ea hM
    abortPc := congrArg Context.pc hM }

theorem fetchWord (h : s.SameUpToDead s') (w : Word) : (s.fetchWord w).SameUpToDead (s'.fetchWord w) :=
  { h with
    slotF := .inl (by rw [State.fetchWord_F, State.fetchWord_F, h.pc])
    pc := by rw [State.fetchWord_pc, State.fetchWord_pc, h.pc] }

theorem fetchBubble (h : s.SameUpToDead s') : s.fetchBubble.SameUpToDead s'.fetchBubble :=
  { h with slotF := Context.sameIfLive_invalid _ _ }

theorem tick (h : s.SameUpToDead s') : s.tick.SameUpToDead s'.tick :=
  { h with t := by rw [State.tick_t, State.tick_t, h.t] }

/-- The copies move dead contexts onto dead contexts. -/
theorem copies (h : s.SameUpToDead s') : s.copies.SameUpToDead s'.copies := by
  unfold State.copies
  rw [h.evenTick]
  split
  · exact { h with slotW := h.slotM, slotM := h.slotE, slotE := h.slotD, slotD := h.slotF }
  · exact { h with slotW := h.slotM, slotM := h.slotE }

theorem beginTick (h : s.SameUpToDead s') : s.beginTick.SameUpToDead s'.beginTick := h.tick.copies

theorem drained (h : s.SameUpToDead s') : s.drained = s'.drained := by
  rw [State.drained, State.drained, h.pcInProgram, h.slotF.live_eq, h.slotD.live_eq, h.slotE.live_eq, h.slotM.live_eq]

theorem haltTest (h : s.SameUpToDead s') : s.haltTest.SameUpToDead s'.haltTest := by
  unfold State.haltTest
  rw [h.drained]
  split
  · exact { h with halted := rfl, running := rfl }
  · exact h

/-! ### The turns of JEQ, JMP, loads and stores keep the relation, from an equal context in the slot that acts -/

theorem jeqTurn (h : s.SameUpToDead s') (hE : s.E = s'.E) (ra rb : RegIdx) (imm : Word) :
    (s.jeqTurn ra rb imm).SameUpToDead (s'.jeqTurn ra rb imm) := by
  unfold State.jeqTurn
  rw [h.readReg, h.readReg, hE]
  split
  · split
    · exact h.markD
    · split
      · exact h.markF.markD.redirect _
      · exact h
  · exact h

theorem jmpTurn (h : s.SameUpToDead s') (hE : s.E = s'.E) (addr : Addr) :
    (s.jmpTurn addr).SameUpToDead (s'.jmpTurn addr) := by
  unfold State.jmpTurn
  rw [h.jumpTarget, hE]
  split
  · exact h.markD
  · split
    · exact h.markF.markD.redirect _
    · exact h

theorem loadTurn (h : s.SameUpToDead s') (hM : s.M = s'.M) : s.loadTurn.SameUpToDead s'.loadTurn := by
  cases hb : inBounds s.M.ea with
  | true =>
    rw [State.loadTurn_in hb, State.loadTurn_in (hM ▸ hb), hM, h.mem]
    exact h.setLoaded hM _
  | false =>
    rw [State.loadTurn_out hb, State.loadTurn_out (hM ▸ hb)]
    exact h.raiseAbort hM _

theorem storeTurn (h : s.SameUpToDead s') (hM : s.M = s'.M) (ra : RegIdx) :
    (s.storeTurn ra).SameUpToDead (s'.storeTurn ra) := by
  cases hb : inBounds s.M.ea with
  | true =>
    rw [State.storeTurn_in ra hb, State.storeTurn_in ra (hM ▸ hb), hM, h.readReg]
    exact h.storeWord _ _
  | false =>
    rw [State.storeTurn_out ra hb, State.storeTurn_out ra (hM ▸ hb)]
    exact h.raiseAbort hM _

end State.SameUpToDead

/-! ### Outcomes -/

/-- If the first outcome is a next state, so is the second, and the two states are equal but for dead contexts. -/
def SameOutcome (o o' : Outcome State Fault Refusal) : Prop :=
  ∀ t, o = .next t → ∃ t', o' = .next t' ∧ t.SameUpToDead t'

theorem State.SameUpToDead.next {s s' : State} (h : s.SameUpToDead s') : SameOutcome (.next s) (.next s') := by
  rintro t ⟨⟩
  exact ⟨s', rfl, h⟩

theorem SameOutcome.andThen {o o' : Outcome State Fault Refusal} {f f' : State → Outcome State Fault Refusal}
    (h : SameOutcome o o') (hf : ∀ t t', t.SameUpToDead t' → SameOutcome (f t) (f' t')) :
    SameOutcome (andThen o f) (andThen o' f') := by
  intro t ht
  obtain ⟨u, hu, hfu⟩ := andThen_eq_next ht
  obtain ⟨u', rfl, hs⟩ := h u hu
  exact hf u u' hs t hfu

/-! ### The turns of every instruction -/

theorem exec_same_execute (i : Instr) {s s' : State} (h : s.SameUpToDead s') (hE : s.E = s'.E) (ht : s.turn = .execute) :
    SameOutcome (exec i s) (exec i s') := by
  have ht' : s'.turn = .execute := h.turn ▸ ht
  cases i with
  | jeq ra rb imm => simpa only [exec, execJeq, ht, ht'] using (h.jeqTurn hE ra rb imm).next
  | jmp addr => simpa only [exec, execJmp, ht, ht'] using (h.jmpTurn hE addr).next
  | movr ra rb imm => simpa only [exec, execMovr, ht, ht'] using (h.setEa hE imm).next
  | movm ra rb imm => simpa only [exec, execMovm, ht, ht'] using (h.setEa hE imm).next
  | undef op rest => simpa only [exec, execUndef, ht, ht'] using (h.setEa hE _).next
  | _ =>
    simp only [exec, execAdd, execSub, execMul, execMovi, execAnd, execXori, execLsl, execLsr,
      State.valueTurns_execute ht, State.valueTurns_execute ht', hE]
    exact (h.setResult hE _).next

theorem exec_same_memory (i : Instr) {s s' : State} (h : s.SameUpToDead s') (hM : s.M = s'.M) (ht : s.turn = .memory) :
    SameOutcome (exec i s) (exec i s') := by
  have ht' : s'.turn = .memory := h.turn ▸ ht
  cases i with
  | movr ra rb imm => simpa only [exec, execMovr, ht, ht'] using (h.loadTurn hM).next
  | movm ra rb imm => simpa only [exec, execMovm, ht, ht'] using (h.storeTurn hM ra).next
  | _ =>
    simp only [exec, execAdd, execSub, execMul, execMovi, execJeq, execAnd, execXori, execJmp, execLsl, execLsr,
      execUndef, State.valueTurns_memory ht, State.valueTurns_memory ht', ht, ht']
    exact h.next

theorem exec_same_decode (i : Instr) {s s' : State} (h : s.SameUpToDead s') (hD : s.D = s'.D) (ht : s.turn = .decode) :
    SameOutcome (exec i s) (exec i s') := by
  rw [exec_decode_eq i ht, exec_decode_eq i (h.turn ▸ ht), hD]
  exact (h.latchOperands hD _ _).next

theorem exec_same_writeback (i : Instr) {s s' : State} (h : s.SameUpToDead s') (hW : s.W = s'.W)
    (ht : s.turn = .writeback) : SameOutcome (exec i s) (exec i s') := by
  rw [exec_writeback_eq i ht, exec_writeback_eq i (h.turn ▸ ht), hW]
  cases wbDest i with
  | none => exact h.next
  | some ra => exact (h.writeReg ra _).next

/-! ### The phases: a gate opens only for a live context, which is the same in both states -/

namespace State.SameUpToDead

variable {s s' : State}

theorem giveTurn {u : Turn} {i : Instr} (h : SameOutcome (exec i (s.setTurn u)) (exec i (s'.setTurn u))) :
    SameOutcome (s.giveTurn u i) (s'.giveTurn u i) :=
  h.andThen fun _ _ ht => (ht.setTurn .rest).next

theorem writebackPhase (h : s.SameUpToDead s') : SameOutcome s.writebackPhase s'.writebackPhase := by
  have hacts : s.writebackActs = s'.writebackActs := by
    rw [State.writebackActs, State.writebackActs, h.evenTick, h.t, h.slotW.live_eq]
  unfold State.writebackPhase
  rw [← hacts]
  split
  · rename_i hact
    have hW := h.slotW.eq_of_live (s.writebackActs_iff.mp hact).2.2
    rw [← hW]
    exact giveTurn (exec_same_writeback _ (h.setTurn .writeback) hW rfl)
  · exact h.next

theorem memoryPhase (h : s.SameUpToDead s') : SameOutcome s.memoryPhase s'.memoryPhase := by
  have hacts : s.memoryActs = s'.memoryActs := by
    rw [State.memoryActs, State.memoryActs, h.evenTick, h.t, h.slotM.live_eq]
  unfold State.memoryPhase
  rw [← hacts]
  split
  · rename_i hact
    have hM := h.slotM.eq_of_live (s.memoryActs_iff.mp hact).2.2
    rw [← hM]
    exact giveTurn (exec_same_memory _ (h.setTurn .memory) hM rfl)
  · exact h.next

theorem executePhase (h : s.SameUpToDead s') : SameOutcome s.executePhase s'.executePhase := by
  have hacts : s.executeActs = s'.executeActs := by
    rw [State.executeActs, State.executeActs, h.evenTick, h.slotE.live_eq]
  unfold State.executePhase
  rw [← hacts]
  split
  · rename_i hact
    have hE := h.slotE.eq_of_live (s.executeActs_iff.mp hact).2
    rw [← hE]
    exact giveTurn (exec_same_execute _ (h.setTurn .execute) hE rfl)
  · exact h.next

theorem decodePhase (h : s.SameUpToDead s') : SameOutcome s.decodePhase s'.decodePhase := by
  have hacts : s.decodeActs = s'.decodeActs := by
    rw [State.decodeActs, State.decodeActs, h.evenTick, h.slotD.live_eq]
  unfold State.decodePhase
  rw [← hacts]
  split
  · rename_i hact
    have hD := h.slotD.eq_of_live (s.decodeActs_iff.mp hact).2
    rw [← hD]
    exact giveTurn (exec_same_decode _ (h.setTurn .decode) hD rfl)
  · exact h.next

theorem fetchPhase (h : s.SameUpToDead s') : SameOutcome s.fetchPhase s'.fetchPhase := by
  cases he : s.evenTick with
  | true =>
    rw [State.fetchPhase_even he, State.fetchPhase_even (h.evenTick ▸ he)]
    exact h.next
  | false =>
    have he' : s'.evenTick = false := h.evenTick ▸ he
    cases hp : s.pcInProgram with
    | false =>
      rw [State.fetchPhase_bubble he hp, State.fetchPhase_bubble he' (h.pcInProgram ▸ hp)]
      exact h.fetchBubble.next
    | true =>
      cases hb : inBounds s.pc with
      | false =>
        intro t ht
        simp [State.fetchPhase, he, hp, State.memRead_out hb] at ht
      | true =>
        rw [State.fetchPhase_fetch he hp hb, State.fetchPhase_fetch he' (h.pcInProgram ▸ hp) (h.pc ▸ hb), h.pc, h.mem]
        exact (h.fetchWord _).next

theorem afterMemory (h : s.SameUpToDead s') : SameOutcome s.afterMemory s'.afterMemory := by
  unfold State.afterMemory
  rw [h.abort]
  split
  · exact h.next
  · exact h.executePhase.andThen fun _ _ hx => hx.decodePhase.andThen fun _ _ hd =>
      hd.fetchPhase.andThen fun _ _ hf => hf.haltTest.next

/-- One step keeps two states equal but for dead contexts. -/
theorem step (h : s.SameUpToDead s') : SameOutcome (step s) (Machine.step s') := by
  cases hr : s.running with
  | false =>
    rw [step_of_not_running hr, step_of_not_running (h.running ▸ hr)]
    exact h.next
  | true =>
    rw [step_of_running hr, step_of_running (h.running ▸ hr)]
    exact h.beginTick.writebackPhase.andThen fun _ _ hw => hw.memoryPhase.andThen fun _ _ hm => hm.afterMemory

end State.SameUpToDead

/-- Settles O47, by induction on the number of steps. -/
theorem deadContextsAreUnobservable : Obligations.DeadContextsAreUnobservable := by
  have runs : ∀ (k : Nat) (s s' : State), s.SameUpToDead s' → SameOutcome (runTicks k s) (runTicks k s') := by
    intro k
    induction k with
    | zero => exact fun s s' h => h.next
    | succ k ih =>
      intro s s' h
      rw [runTicks_succ, runTicks_succ]
      exact h.step.andThen ih
  exact fun k s₁ s₂ t₁ h => runs k s₁ s₂ h t₁

end Sys2Proof.Machine

/-! ### The family of file 30: the codec

The decoder's fields and the encoder's layouts are inverse to each other, class by class; and no run is refused. -/

namespace Sys2Proof

/-! ### The decoded fields and the instruction they stand for -/

theorem Fields.instr_opcode (f : Fields) : f.instr.opcode = f.op := by
  unfold Fields.instr
  split
  case h_13 => rfl
  all_goals
    rename_i hop
    exact (Machine.opcode_eq_of_toNat hop).symm

theorem Fields.instr_undef {f : Fields} (h : 12 ≤ f.op.toNat) : f.instr = .undef f.op f.addr := by
  unfold Fields.instr
  split
  case h_13 => rfl
  all_goals omega

/-- Only opcodes 12 to 15 stand for UNDEF (R200). -/
theorem Fields.instr_eq_undef_iff (f : Fields) : (∃ op rest, f.instr = .undef op rest) ↔ 12 ≤ f.op.toNat := by
  refine ⟨?_, fun h => ⟨_, _, Fields.instr_undef h⟩⟩
  rintro ⟨op, rest, h⟩
  unfold Fields.instr at h
  split at h <;> cases h
  -- the last arm: the opcode is none of 0 to 11
  grind

theorem Fields.instr_wf {f : Fields} (himm : immFits f.imm = true) : f.instr.wf = true := by
  unfold Fields.instr
  split
  case h_4 | h_5 | h_7 | h_11 | h_12 => exact himm
  case h_13 =>
    have h12 : 12 ≤ f.op.toNat := by grind
    exact decide_eq_true h12
  all_goals rfl

theorem decode_wf (w : Word) : (decode w).wf = true := Fields.instr_wf (immFits_sext18 _)

/-- The opcode is at least 12 when its upper two bits are set. -/
theorem twelve_le_fieldOp_iff (w : Word) : 12 ≤ (fieldOp w).toNat ↔ w.extractLsb' 30 2 = 3#2 := by
  have upper : ∀ op : Opcode, 12 ≤ op.toNat ↔ op.extractLsb' 2 2 = 3#2 := by decide
  have hw : (fieldOp w).extractLsb' 2 2 = w.extractLsb' 30 2 := by
    ext i hi
    have h4 : 2 + i < 4 := by omega
    simp [fieldOp, h4, ← Nat.add_assoc]
  rw [upper, hw]

/-- Settles O3: the decoder's immediates fit, and the opcode field alone selects the instruction. -/
theorem everyWordDecodesToItsOpcode : Obligations.EveryWordDecodesToItsOpcode := fun w =>
  ⟨decode_wf w, Fields.instr_opcode _, (Fields.instr_eq_undef_iff _).trans (twelve_le_fieldOp_iff w)⟩

/-! ### The word of an instruction -/

/-- The instruction's operands in the layout of its opcode (R103 to R106), without the encoder's checks. -/
def Instr.packed : Instr → Word
  | .add ra rb rc => packR 0 ra rb rc
  | .sub ra rb rc => packR 1 ra rb rc
  | .mul ra rb rc => packR 2 ra rb rc
  | .movi ra imm => packI 3 ra 0 (imm.setWidth 18)
  | .jeq ra rb imm => packI 4 ra rb (imm.setWidth 18)
  | .and ra rb rc => packR 5 ra rb rc
  | .xori ra rb imm => packI 6 ra rb (imm.setWidth 18)
  | .jmp addr => packJ 7 addr
  | .lsl ra rb shamt => packS 8 ra rb shamt
  | .lsr ra rb shamt => packS 9 ra rb shamt
  | .movr ra rb imm => packI 10 ra rb (imm.setWidth 18)
  | .movm ra rb imm => packI 11 ra rb (imm.setWidth 18)
  | .undef op rest => packJ op rest

/-- The encoder accepts the request of every well-formed instruction. -/
theorem encode_eq_packed {i : Instr} (h : i.wf = true) : encode i = i.packed := by
  cases i
  case add | sub | mul | and => exact encoder_requestR rfl ..
  case movi | jeq | xori | movr | movm => exact encoder_requestI rfl _ _ h
  case lsl | lsr => exact encoder_requestS rfl ..
  case jmp addr => exact encoder_requestJ rfl addr
  case undef => rfl

theorem decode_packed {i : Instr} (h : i.wf = true) : decode i.packed = i := by
  cases i
  case undef op rest =>
    have hop : (decodeFields (packJ op rest)).op = op := fieldOp_packJ op rest
    have h12 : 12 ≤ op.toNat := of_decide_eq_true h
    rw [Instr.packed, decode, Fields.instr_undef (by rwa [hop]), hop]
    exact congrArg _ (fieldAddr_packJ op rest)
  case movi | jeq | xori | movr | movm =>
    simp [Instr.packed, decode, decodeFields, Fields.instr, sext18_setWidth h]
  all_goals simp [Instr.packed, decode, decodeFields, Fields.instr]

/-- Settles O2: the decoder reads back what the layout of the opcode packed. -/
theorem decodeOfEncodeIsTheInstruction : Obligations.DecodeOfEncodeIsTheInstruction := by
  intro i h
  rw [encode_eq_packed h, decode_packed h]

/-! ### A word is its fields -/

theorem fieldOp_append_fieldA_append_fieldB (w : Word) : fieldOp w ++ fieldA w ++ fieldB w = w.extractLsb' 18 14 := by
  have hOA : fieldOp w ++ fieldA w = w.extractLsb' 23 9 := BitVec.extractLsb'_append_extractLsb'_eq_extractLsb' rfl
  rw [hOA]
  exact BitVec.extractLsb'_append_extractLsb'_eq_extractLsb' rfl

/-- The fields of R101 without the immediate and the address leave no bit out. -/
theorem fields_append (w : Word) : fieldOp w ++ fieldA w ++ fieldB w ++ fieldC w ++ fieldShamt w = w := by
  have hC : w.extractLsb' 18 14 ++ fieldC w = w.extractLsb' 13 19 :=
    BitVec.extractLsb'_append_extractLsb'_eq_extractLsb' rfl
  rw [fieldOp_append_fieldA_append_fieldB, hC]
  exact (BitVec.extractLsb'_append_extractLsb'_eq_extractLsb' rfl).trans BitVec.extractLsb'_eq_self

theorem packI_fields (w : Word) : packI (fieldOp w) (fieldA w) (fieldB w) (w.extractLsb' 0 18) = w := by
  rw [packI, fieldOp_append_fieldA_append_fieldB]
  exact (BitVec.extractLsb'_append_extractLsb'_eq_extractLsb' rfl).trans BitVec.extractLsb'_eq_self

theorem packJ_fields (w : Word) : packJ (fieldOp w) (fieldAddr w) = w :=
  (BitVec.extractLsb'_append_extractLsb'_eq_extractLsb' rfl).trans BitVec.extractLsb'_eq_self

/-- A mask acts on a word field by field. -/
theorem and_append_fields (w : Word) (op : Opcode) (a b c : RegIdx) (n : Shamt) :
    w &&& (op ++ a ++ b ++ c ++ n) =
      (fieldOp w &&& op) ++ (fieldA w &&& a) ++ (fieldB w &&& b) ++ (fieldC w &&& c) ++ (fieldShamt w &&& n) := by
  rw [← BitVec.and_append, ← BitVec.and_append, ← BitVec.and_append, ← BitVec.and_append]
  exact congrArg (· &&& _) (fields_append w).symm

theorem packR_fields (w : Word) : packR (fieldOp w) (fieldA w) (fieldB w) (fieldC w) = w &&& 0xFFFFE000#32 := by
  have h := and_append_fields w (BitVec.allOnes 4) (BitVec.allOnes 5) (BitVec.allOnes 5) (BitVec.allOnes 5) 0#13
  simp only [BitVec.and_allOnes, BitVec.and_zero] at h
  exact h.symm

theorem packS_fields (w : Word) : packS (fieldOp w) (fieldA w) (fieldB w) (fieldShamt w) = w &&& 0xFFFC1FFF#32 := by
  have h := and_append_fields w (BitVec.allOnes 4) (BitVec.allOnes 5) (BitVec.allOnes 5) 0#5 (BitVec.allOnes 13)
  simp only [BitVec.and_allOnes, BitVec.and_zero] at h
  exact h.symm

theorem packI_and_packI (op op' : Opcode) (a a' b b' : RegIdx) (imm imm' : BitVec 18) :
    packI op a b imm &&& packI op' a' b' imm' = packI (op &&& op') (a &&& a') (b &&& b') (imm &&& imm') := by
  rw [packI, packI, packI, ← BitVec.and_append, ← BitVec.and_append, ← BitVec.and_append]

theorem packI_fields_noB (w : Word) :
    packI (fieldOp w) (fieldA w) 0 (w.extractLsb' 0 18) = w &&& 0xFF83FFFF#32 := by
  have h := packI_and_packI (fieldOp w) (BitVec.allOnes 4) (fieldA w) (BitVec.allOnes 5) (fieldB w) 0#5
    (w.extractLsb' 0 18) (BitVec.allOnes 18)
  simp only [packI_fields, BitVec.and_allOnes, BitVec.and_zero] at h
  exact h.symm

/-- The low bits of a sign extension are the field's own. -/
theorem setWidth_sext18 (v : BitVec 18) : (sext18 v).setWidth 18 = v := by
  ext i hi
  have h32 : i < 32 := by omega
  simp [sext18, BitVec.getElem_signExtend, hi, h32]

/-! ### Encoding what was decoded -/

theorem Fields.packed_instr_r {f : Fields} (h : f.op ∈ [0#4, 1#4, 2#4, 5#4]) :
    f.instr.packed = packR f.op f.rA f.rB f.rC := by
  obtain ⟨op, rA, rB, rC, shamt, imm, addr⟩ := f
  simp only [List.mem_cons, List.not_mem_nil, or_false] at h
  rcases h with rfl | rfl | rfl | rfl <;> rfl

theorem Fields.packed_instr_i {f : Fields} (h : f.op ∈ [4#4, 6#4, 10#4, 11#4]) :
    f.instr.packed = packI f.op f.rA f.rB (f.imm.setWidth 18) := by
  obtain ⟨op, rA, rB, rC, shamt, imm, addr⟩ := f
  simp only [List.mem_cons, List.not_mem_nil, or_false] at h
  rcases h with rfl | rfl | rfl | rfl <;> rfl

/-- For MOVI the layout I has field B 0 (log 15). -/
theorem Fields.packed_instr_movi {f : Fields} (h : f.op = 3#4) :
    f.instr.packed = packI f.op f.rA 0 (f.imm.setWidth 18) := by
  obtain ⟨op, rA, rB, rC, shamt, imm, addr⟩ := f
  subst h
  rfl

theorem Fields.packed_instr_s {f : Fields} (h : f.op ∈ [8#4, 9#4]) :
    f.instr.packed = packS f.op f.rA f.rB f.shamt := by
  obtain ⟨op, rA, rB, rC, shamt, imm, addr⟩ := f
  simp only [List.mem_cons, List.not_mem_nil, or_false] at h
  rcases h with rfl | rfl <;> rfl

/-- JMP, and UNDEF, whose word is its own bits (log 13). -/
theorem Fields.packed_instr_j {f : Fields} (h : f.op ∈ [7#4, 12#4, 13#4, 14#4, 15#4]) :
    f.instr.packed = packJ f.op f.addr := by
  obtain ⟨op, rA, rB, rC, shamt, imm, addr⟩ := f
  simp only [List.mem_cons, List.not_mem_nil, or_false] at h
  rcases h with rfl | rfl | rfl | rfl | rfl <;> rfl

theorem encode_decode (w : Word) : encode (decode w) = (decodeFields w).instr.packed := encode_eq_packed (decode_wf w)

/-- Settles O4: what the decoder hands to the layout is the word's fields, and a field left out is packed as 0. -/
theorem reencodingClearsOnlyIgnoredBits : Obligations.ReencodingClearsOnlyIgnoredBits := by
  intro w
  rw [encode_decode]
  refine ⟨fun h => ?_, fun h => ?_, fun h => ?_, fun h => ?_⟩
  · exact (Fields.packed_instr_r h).trans (packR_fields w)
  · rw [Fields.packed_instr_movi h]
    exact (congrArg _ (setWidth_sext18 _)).trans (packI_fields_noB w)
  · exact (Fields.packed_instr_s h).trans (packS_fields w)
  · have hcases : fieldOp w ∈ [4#4, 6#4, 10#4, 11#4] ∨ fieldOp w ∈ [7#4, 12#4, 13#4, 14#4, 15#4] := by
      simp only [List.mem_cons, List.not_mem_nil, or_false] at h ⊢
      tauto
    rcases hcases with hi | hj
    · rw [Fields.packed_instr_i hi]
      exact (congrArg _ (setWidth_sext18 _)).trans (packI_fields w)
    · exact (Fields.packed_instr_j hj).trans (packJ_fields w)

/-- A word decodes as the word it is encoded to again. -/
theorem decode_encode_decode (w : Word) : decode (encode (decode w)) = decode w :=
  decodeOfEncodeIsTheInstruction _ (decode_wf w)

/-- Settles O5: the word with its ignored bits 0 is the word encoded again (O4), which decodes the same (O2). -/
theorem ignoredBitsDoNotSelect : Obligations.IgnoredBitsDoNotSelect := by
  intro w
  obtain ⟨hr, hmovi, hs, -⟩ := reencodingClearsOnlyIgnoredBits w
  exact ⟨fun h => hr h ▸ decode_encode_decode w, fun h => hmovi h ▸ decode_encode_decode w,
    fun h => hs h ▸ decode_encode_decode w⟩

/-! ### The immediate -/

/-- Settles O6: sign extension keeps the signed reading, and bit 17 is the sign of an 18-bit field. -/
theorem immediateIsSignExtended : Obligations.ImmediateIsSignExtended := by
  refine ⟨fun _ => rfl, fun v => ?_, by decide, by decide, by decide⟩
  have hext : (sext18 v).toInt = v.toInt := BitVec.toInt_signExtend_of_le (by decide)
  rw [hext, BitVec.toInt_eq_msb_cond, BitVec.msb_eq_getLsbD_last]
  rfl

/-! ### The encoder block -/

theorem encoder_of_not_accepted {r : EncodeRequest} (h : r.accepted = false) :
    encoder r = { word := 0, err := true } := by
  rw [encoder, if_neg (Bool.not_eq_true _ ▸ h)]

theorem encoder_err (r : EncodeRequest) : (encoder r).err = !r.accepted := by
  cases h : r.accepted with
  | true => rw [encoder_of_accepted h]; rfl
  | false => rw [encoder_of_not_accepted h]; rfl

theorem accepted_iff (r : EncodeRequest) :
    r.accepted = true ↔ classOf r.op = some (classOfCode r.cls) ∧ r.operandsFit = true := by
  rw [EncodeRequest.accepted, Bool.and_eq_true, decide_eq_true_eq]

/-- Settles O8: acceptance asks for the opcode's class. -/
theorem encoderRefusesAWrongClass : Obligations.EncoderRefusesAWrongClass := fun r h =>
  encoder_of_not_accepted (Bool.eq_false_iff.mpr fun hacc => h ((accepted_iff r).mp hacc).1)

/-- The class input has four values (R110). -/
theorem class_code_cases : ∀ cls : BitVec 2, cls = 0 ∨ cls = 1 ∨ cls = 2 ∨ cls = 3 := by decide

/-- The range check of R111, operand by operand. -/
theorem operandsFit_iff (r : EncodeRequest) : r.operandsFit = true ↔
    (r.cls ≠ 2 → r.a.toNat < 32 ∧ r.b.toNat < 32) ∧ (r.cls = 0 → r.c.toNat < 32) ∧
    (r.cls = 1 → immFits r.imm = true) ∧ (r.cls = 3 → r.shamt.toNat < 8192) ∧
    (r.cls = 2 → r.addr.toNat < 268435456) := by
  rcases class_code_cases r.cls with h | h | h | h <;> simp [EncodeRequest.operandsFit, regFits, h, and_assoc]

theorem immFits_eq_false_iff (imm : Word) : immFits imm = false ↔ imm.toInt < -131072 ∨ 131071 < imm.toInt := by
  simp only [immFits, Bool.and_eq_false_iff, decide_eq_false_iff_not, not_le]

/-- Settles O7: with the class right, the check is the range check, whose negation names the operand that does not fit. -/
theorem encoderChecksRanges : Obligations.EncoderChecksRanges := by
  intro r hclass
  have hacc : r.accepted = r.operandsFit := by
    rw [EncodeRequest.accepted, decide_eq_true hclass, Bool.true_and]
  refine ⟨?_, fun herr => ?_⟩
  · have hfit := (operandsFit_iff r).not
    simp only [Classical.not_and_iff_not_or_not, Classical.not_imp, not_lt, Bool.not_eq_true,
      immFits_eq_false_iff] at hfit
    rw [encoder_err, hacc, Bool.not_eq_true', hfit]
  · rw [encoder_err, Bool.not_eq_true'] at herr
    rw [encoder_of_not_accepted herr]

theorem toNat_setWidth_of_lt {k : Nat} {v : Word} (h : v.toNat < 2 ^ k) : (v.setWidth k).toNat = v.toNat := by
  rw [BitVec.toNat_setWidth, Nat.mod_eq_of_lt h]

theorem fieldOp_packed (r : EncodeRequest) : fieldOp r.packed = r.op := by
  rcases class_code_cases r.cls with h | h | h | h <;> simp [EncodeRequest.packed, h]

/-- Every class but J packs the operands A and B into the fields A and B. -/
theorem fieldA_fieldB_packed {r : EncodeRequest} (h : r.cls ≠ 2) :
    fieldA r.packed = r.a.setWidth 5 ∧ fieldB r.packed = r.b.setWidth 5 := by
  rcases class_code_cases r.cls with hc | hc | hc | hc
  case inr.inr.inl => exact absurd hc h
  all_goals simp [EncodeRequest.packed, hc]

/-- Settles O9: each operand that fits its field is the low bits the encoder packed. -/
theorem acceptedRequestDecodesToItsOperands : Obligations.AcceptedRequestDecodesToItsOperands := by
  intro r herr
  rw [encoder_err, Bool.not_eq_false'] at herr
  obtain ⟨hab, hc, himm, hshamt, haddr⟩ := (operandsFit_iff r).mp ((accepted_iff r).mp herr).2
  rw [encoder_of_accepted herr]
  refine ⟨fieldOp_packed r, fun h => ?_, fun h => ?_, fun h => ?_, fun h => ?_, fun h => ?_⟩
  · obtain ⟨hA, hB⟩ := fieldA_fieldB_packed h
    obtain ⟨ha, hb⟩ := hab h
    exact ⟨(congrArg _ hA).trans (toNat_setWidth_of_lt ha), (congrArg _ hB).trans (toNat_setWidth_of_lt hb)⟩
  · have hp : fieldC r.packed = r.c.setWidth 5 := by simp [EncodeRequest.packed, h]
    exact (congrArg _ hp).trans (toNat_setWidth_of_lt (hc h))
  · have hp : fieldImm r.packed = sext18 (r.imm.setWidth 18) := by simp [EncodeRequest.packed, h]
    exact hp.trans (sext18_setWidth (himm h))
  · have hp : fieldShamt r.packed = r.shamt.setWidth 13 := by simp [EncodeRequest.packed, h]
    exact (congrArg _ hp).trans (toNat_setWidth_of_lt (hshamt h))
  · have hp : fieldAddr r.packed = r.addr.setWidth 28 := by simp [EncodeRequest.packed, h]
    exact (congrArg _ hp).trans (toNat_setWidth_of_lt (haddr h))

/-- Settles O1, word by word. -/
theorem sampleWordsDecode : Obligations.SampleWordsDecode := by
  unfold Obligations.SampleWordsDecode
  decide

end Sys2Proof

/-! ### No run is refused -/

namespace Sys2Proof.Machine

open Host (Outcome)

theorem andThen_ne_refused {o : Outcome State Fault Refusal} {f : State → Outcome State Fault Refusal} {r : Refusal}
    (ho : o ≠ .refused r) (hf : ∀ s, f s ≠ .refused r) : andThen o f ≠ .refused r := by
  cases o with
  | next s => exact hf s
  | fault _ => exact nofun
  | refused _ => exact ho

theorem State.fetchPhase_ne_refused (s : State) (r : Refusal) : s.fetchPhase ≠ .refused r := by
  unfold State.fetchPhase
  split
  · exact nofun
  · split
    · split <;> exact nofun
    · exact nofun

/-- Every instruction has a meaning in every turn, so no phase of an advance is refused. -/
theorem step_ne_refused (s : State) (r : Refusal) : step s ≠ .refused r := by
  cases hr : s.running with
  | false => simp [step_of_not_running hr]
  | true =>
    obtain ⟨s₁, hw⟩ := s.beginTick.writebackPhase_next
    obtain ⟨s₂, hm⟩ := s₁.memoryPhase_next
    rw [step_of_running hr, advance, hw, andThen_next, hm, andThen_next, State.afterMemory]
    split
    · exact nofun
    · obtain ⟨s₃, hx⟩ := s₂.executePhase_next
      obtain ⟨s₄, hd⟩ := s₃.decodePhase_next
      rw [hx, andThen_next, hd, andThen_next]
      exact andThen_ne_refused (s₄.fetchPhase_ne_refused r) fun _ => nofun

/-- Settles O46, by induction on the number of steps. -/
theorem noRunIsRefused : Obligations.NoRunIsRefused := by
  intro s k r
  induction k generalizing s with
  | zero => simp
  | succ k ih =>
    rw [runTicks_succ]
    exact andThen_ne_refused (step_ne_refused s r) ih

end Sys2Proof.Machine

/-! ### The family of file 40: arithmetic and logic

The turns of the instructions that compute a value; and one instruction followed from its fetch to its Write-back. -/

namespace Sys2Proof.Machine

/-! ### The turns of the instructions that compute a value -/

/-- The four turns of an instruction with the shared stage pattern (R146). -/
theorem exec_of_valueTurns {i : Instr} {s : State} {ra rb rc : RegIdx} {value : Context → Word}
    (hi : exec i s = .next (s.valueTurns ra rb rc value)) :
    (s.turn = .decode → exec i s = .next (s.latchOperands rb rc)) ∧
    (s.turn = .execute → exec i s = .next (s.setResult (value s.E))) ∧
    (s.turn = .memory → exec i s = .next s) ∧
    (s.turn = .writeback → exec i s = .next (s.writeReg ra s.W.result)) :=
  ⟨fun h => by rw [hi, State.valueTurns_decode h], fun h => by rw [hi, State.valueTurns_execute h],
    fun h => by rw [hi, State.valueTurns_memory h], fun h => by rw [hi, State.valueTurns_writeback h]⟩

/-- Subtraction modulo 2^32 is the exact difference reduced (decision D2). -/
theorem sub_eq_ofInt (a b : Word) : a - b = BitVec.ofInt 32 ((a.toNat : Int) - b.toNat) := by
  rw [Int.sub_eq_add_neg, BitVec.ofInt_add, BitVec.ofInt_neg, BitVec.ofInt_natCast, BitVec.ofInt_natCast,
    BitVec.ofNat_toNat, BitVec.ofNat_toNat, BitVec.setWidth_eq, BitVec.setWidth_eq, BitVec.sub_eq_add_neg]

/-- Settles O12. -/
theorem addSubMulAndTurns : Obligations.AddSubMulAndTurns := by
  intro s ra rb rc
  obtain ⟨addD, addE, addM, addW⟩ := exec_of_valueTurns (i := .add ra rb rc) (s := s) rfl
  obtain ⟨subD, subE, subM, subW⟩ := exec_of_valueTurns (i := .sub ra rb rc) (s := s) rfl
  obtain ⟨mulD, mulE, mulM, mulW⟩ := exec_of_valueTurns (i := .mul ra rb rc) (s := s) rfl
  obtain ⟨andD, andE, andM, andW⟩ := exec_of_valueTurns (i := .and ra rb rc) (s := s) rfl
  refine ⟨fun h => ⟨addD h, subD h, mulD h, andD h⟩, fun h => ⟨?_, ?_, ?_, andE h⟩,
    fun h => ⟨addM h, subM h, mulM h, andM h⟩, fun h => ⟨addW h, subW h, mulW h, andW h⟩⟩
  · simp only [BitVec.ofNat_add, BitVec.ofNat_toNat, BitVec.setWidth_eq]
    exact addE h
  · rw [← sub_eq_ofInt]
    exact subE h
  · simp only [BitVec.ofNat_mul, BitVec.ofNat_toNat, BitVec.setWidth_eq]
    exact mulE h

/-- Settles O13. -/
theorem xoriMoviTurns : Obligations.XoriMoviTurns := by
  intro s ra rb imm
  obtain ⟨xoriD, xoriE, xoriM, xoriW⟩ := exec_of_valueTurns (i := .xori ra rb imm) (s := s) rfl
  obtain ⟨moviD, moviE, moviM, moviW⟩ := exec_of_valueTurns (i := .movi ra imm) (s := s) rfl
  exact ⟨fun h => ⟨xoriD h, moviD h⟩, fun h => ⟨xoriE h, moviE h⟩, fun h => ⟨xoriM h, moviM h⟩,
    fun h => ⟨xoriW h, moviW h⟩⟩

end Sys2Proof.Machine

/-! ### The turns and the ticks against the one-at-a-time reading -/

namespace Sys2Proof.Machine

open Host (Outcome)

/-! ### What an instruction's turns make of its operands -/

/-- An instruction whose access is inside memory writes no register, or the one its Write-back turn writes (R121). -/
theorem wbDest_cases {i : Instr} {s : State} (hb : ∀ a, netAddress i s = some a → inBounds a = true) :
    (wbDest i = none ∧ (netEffect i s).regs = s.regs) ∨
      ∃ r v, wbDest i = some r ∧ netWrite i s = some (r, v) := by
  cases i with
  | movr ra rb imm => exact .inr ⟨ra, _, rfl, if_pos (hb _ rfl)⟩
  | jeq | jmp | movm | undef => exact .inl ⟨rfl, rfl⟩
  | _ => exact .inr ⟨_, _, rfl, rfl⟩

/-- An instruction without an access writes what it computed, leaves memory alone and does nothing at its Memory turn. -/
theorem noAccess_of_netAddress_eq_none {i : Instr} {s₀ : State} (h : netAddress i s₀ = none) :
    netWrite i s₀ = netValue i s₀ ∧ (netEffect i s₀).mem = s₀.mem ∧
      ∀ s : State, s.turn = .memory → exec i s = .next s := by
  cases i with
  | movr | movm => cases h
  | _ =>
    refine ⟨rfl, rfl, fun s ht => ?_⟩
    simp only [exec, execAdd, execSub, execMul, execMovi, execJeq, execAnd, execXori, execJmp, execLsl, execLsr, execUndef,
      State.valueTurns, ht]

/-- Execute computes the value, or the address, of the operands latched at Decode. -/
theorem exec_execute_computes {i : Instr} {s s₀ s' : State} {w : Word} (ht : s.turn = .execute)
    (hB : s.E.valB = s₀.readReg (portB w i)) (hC : s.E.valC = s₀.readReg (portC w i)) (h : exec i s = .next s') :
    (∀ r v, netValue i s₀ = some (r, v) → s'.E.result = v) ∧ ∀ a, netAddress i s₀ = some a → s'.E.ea = a := by
  cases i with
  | jeq | jmp | undef => exact ⟨nofun, nofun⟩
  | movr ra rb imm | movm ra rb imm =>
    simp only [exec, execMovr, execMovm, ht, Outcome.next.injEq] at h
    subst h
    refine ⟨nofun, ?_⟩
    rintro a ⟨⟩
    exact congrArg (· + imm) hB
  | _ =>
    simp only [exec, execAdd, execSub, execMul, execMovi, execAnd, execXori, execLsl, execLsr, State.valueTurns, ht,
      Outcome.next.injEq] at h
    subst h
    refine ⟨?_, nofun⟩
    rintro r v ⟨⟩
    simp only [portB, portC] at hB hC
    simp only [State.setResult_E, hB, hC]

/-- Memory makes the one access of the net effect, inside memory, and leaves the rest to Write-back. -/
theorem exec_memory_net {i : Instr} {s s₀ : State} (ht : s.turn = .memory) (hregs : s.regs = s₀.regs)
    (hmem : s.mem = s₀.mem) (hv : ∀ r v, netValue i s₀ = some (r, v) → s.M.result = v)
    (ha : ∀ a, netAddress i s₀ = some a → s.M.ea = a) (hb : ∀ a, netAddress i s₀ = some a → inBounds a = true) :
    ∃ u, exec i s = .next { s with mem := (netEffect i s₀).mem, M := { s.M with result := u } } ∧
      ∀ r v, netWrite i s₀ = some (r, v) → u = v := by
  cases hn : netAddress i s₀ with
  | none =>
    obtain ⟨hwrite, hmem', hexec⟩ := noAccess_of_netAddress_eq_none hn
    refine ⟨s.M.result, ?_, fun r v h => hv r v (hwrite ▸ h)⟩
    rw [hexec s ht, hmem', ← hmem]
  | some a =>
    have hin : inBounds s.M.ea = true := by rw [ha a hn]; exact hb a hn
    cases i with
    | movr ra rb imm =>
      obtain rfl : s₀.readReg rb + imm = a := Option.some.inj hn
      refine ⟨Memory.read s.mem s.M.ea.toNat, ?_, ?_⟩
      · have hexec : exec (.movr ra rb imm) s = .next s.loadTurn := by simp only [exec, execMovr, ht]
        rw [hexec, State.loadTurn_in hin, netEffect, State.writeReg_mem, ← hmem]
        rfl
      · intro r v h
        rw [netWrite, if_pos (hb _ hn)] at h
        cases h
        rw [ha _ hn, hmem]
    | movm ra rb imm =>
      obtain rfl : s₀.readReg rb + imm = a := Option.some.inj hn
      refine ⟨s.M.result, ?_, nofun⟩
      have hexec : exec (.movm ra rb imm) s = .next (s.storeTurn ra) := by simp only [exec, execMovm, ht]
      rw [hexec, State.storeTurn_in ra hin, State.readReg_congr hregs, netEffect, ← hmem, ← ha _ hn]
      rfl
    | _ => cases hn

/-- What Execute leaves alone: of the context in D only the mark may change, of the one in E the result and the address. -/
theorem ExecuteEffect.keeps {s s' : State} (h : ExecuteEffect s s') :
    s'.mem = s.mem ∧ s'.M = s.M ∧ s'.running = s.running ∧ s'.D = { s.D with flush := s'.D.flush } ∧
      s'.E = { s.E with result := s'.E.result, ea := s'.E.ea } := by
  rcases h with ⟨v, rfl⟩ | ⟨imm, rfl⟩ | rfl | rfl | ⟨a, rfl⟩ <;> exact ⟨rfl, rfl, rfl, rfl, rfl⟩

/-! ### Memory and Execute of a dead context -/

theorem State.memoryPhase_of_dead {s : State} (h : s.M.live = false) : s.memoryPhase = .next s :=
  if_neg (by simp [State.memoryActs, h])

theorem State.executePhase_of_dead {s : State} (h : s.E.live = false) : s.executePhase = .next s :=
  if_neg (by simp [State.executeActs, h])

/-! ### What each phase leaves alone of the contexts and of memory -/

/-- Memory stops the run only by an abort. -/
theorem State.memoryPhase_running {s s' : State} (h : s.memoryPhase = .next s') (ha : s'.abort = false) :
    s'.running = s.running := by
  rcases State.memoryPhase_inv h with rfl | ⟨s₁, rfl | ⟨-, rfl⟩ | ⟨-, v, rfl⟩ | ⟨-, k, -, rfl⟩, rfl⟩
  case inr.inr.inr.inr => cases ha
  all_goals rfl

theorem State.executePhase_keeps {s s' : State} (h : s.executePhase = .next s') :
    s'.mem = s.mem ∧ s'.M = s.M ∧ s'.running = s.running ∧ s'.D = { s.D with flush := s'.D.flush } := by
  rcases State.executePhase_inv h with rfl | ⟨s₁, he, rfl⟩
  · exact ⟨rfl, rfl, rfl, rfl⟩
  · obtain ⟨hmem, hM, hrun, hD, -⟩ := he.keeps
    exact ⟨hmem, hM, hrun, hD⟩

theorem State.decodePhase_keeps {s s' : State} (h : s.decodePhase = .next s') :
    s'.mem = s.mem ∧ s'.E = s.E ∧ s'.M = s.M ∧ s'.running = s.running := by
  rcases State.decodePhase_inv h with ⟨-, rfl⟩ | ⟨-, rfl⟩ <;> exact ⟨rfl, rfl, rfl, rfl⟩

theorem State.writebackPhase_keeps {s s' : State} (h : s.writebackPhase = .next s') :
    s'.mem = s.mem ∧ s'.D = s.D ∧ s'.E = s.E ∧ s'.M = s.M ∧ s'.running = s.running := by
  rcases State.writebackPhase_inv h with rfl | rfl | ⟨ra, rfl⟩ <;> exact ⟨rfl, rfl, rfl, rfl, rfl⟩

theorem State.fetchPhase_keeps {s s' : State} (he : s.evenTick = false) (h : s.fetchPhase = .next s') :
    s'.mem = s.mem ∧ s'.D = s.D ∧ s'.E = s.E ∧ s'.M = s.M ∧ s'.running = s.running := by
  rcases State.fetchPhase_inv he h with ⟨-, w, rfl⟩ | ⟨-, rfl⟩ <;> exact ⟨rfl, rfl, rfl, rfl, rfl⟩

/-! ### A tick without an abort, as an inversion -/

/-- An odd tick: Write-back, Fetch and the halt test; it never aborts. -/
theorem step_odd_inv {s s' : State} (hr : s.running = true) (ha : s.abort = false) (he : s.evenTick = true)
    (h : step s = .next s') :
    ∃ s₁ s₂, s.beginTick.writebackPhase = .next s₁ ∧ s₁.evenTick = false ∧ s₁.fetchPhase = .next s₂ ∧
      s₂.abort = false ∧ s' = s₂.haltTest := by
  obtain ⟨s₁, hw, ho, hrest⟩ := step_odd_cases hr he h
  have habort : s₁.abort = false := by rw [(State.writebackPhase_frame hw).2.2, State.beginTick_abort, ha]
  rcases hrest with ⟨ha', -⟩ | ⟨-, s₂, hf, rfl⟩
  · rw [habort] at ha'
    cases ha'
  · exact ⟨s₁, s₂, hw, ho, hf, (State.fetchPhase_frame ho hf).2.2.trans habort, rfl⟩

/-- An even tick that does not abort: Memory, Execute, Decode and the halt test. -/
theorem step_even_inv {s s' : State} (hr : s.running = true) (he : s.evenTick = false) (h : step s = .next s')
    (ha : s'.abort = false) :
    ∃ s₁ s₂ s₃, s.beginTick.memoryPhase = .next s₁ ∧ s₁.executePhase = .next s₂ ∧ s₁.evenTick = true ∧
      s₂.decodePhase = .next s₃ ∧ s₃.abort = false ∧ s' = s₃.haltTest := by
  obtain ⟨s₁, hm, ⟨ha', rfl⟩ | ⟨-, s₂, s₃, hx, hd, rfl⟩⟩ := step_even_cases hr he h
  · rw [ha] at ha'
    cases ha'
  · have he₁ : s₁.evenTick = true := by
      rw [State.evenTick_congr (State.memoryPhase_slotsKept hm).t, State.beginTick_evenTick, he]
      rfl
    exact ⟨s₁, s₂, s₃, hm, hx, he₁, hd, by rwa [State.haltTest_abort] at ha, rfl⟩

/-- A live context that the halt test looks at (R230). -/
def State.Occupied (s : State) : Prop :=
  s.F.live = true ∨ s.D.live = true ∨ s.E.live = true ∨ s.M.live = true

theorem State.occupied_haltTest {s : State} : s.haltTest.Occupied ↔ s.Occupied := by
  simp [State.Occupied]

theorem State.Occupied.haltTest {s : State} (h : s.Occupied) : s.haltTest = s := by
  have hdrained : s.drained = false := by
    rcases h with h | h | h | h <;> simp [State.drained, h]
  simp [State.haltTest, hdrained]

/-- A run goes on past a tick that does not abort and leaves a live context in F, D, E or M (R230). -/
theorem step_running {s s' : State} (hr : s.running = true) (ha : s.abort = false) (h : step s = .next s')
    (ha' : s'.abort = false) (hlive : s'.Occupied) :
    s'.running = true := by
  cases he : s.evenTick with
  | true =>
    obtain ⟨s₁, s₂, hw, ho, hf, -, rfl⟩ := step_odd_inv hr ha he h
    obtain ⟨-, -, -, -, hw⟩ := State.writebackPhase_keeps hw
    obtain ⟨-, -, -, -, hf⟩ := State.fetchPhase_keeps ho hf
    rw [(State.occupied_haltTest.mp hlive).haltTest, hf, hw, State.beginTick_running, hr]
  | false =>
    obtain ⟨s₁, s₂, s₃, hm, hx, -, hd, ha₃, rfl⟩ := step_even_inv hr he h ha'
    have ha₁ : s₁.abort = false := by
      rw [← (State.executePhase_frame hx).2, ← (State.decodePhase_frame hd).2.2, ha₃]
    obtain ⟨-, -, hx, -⟩ := State.executePhase_keeps hx
    obtain ⟨-, -, -, hd⟩ := State.decodePhase_keeps hd
    rw [(State.occupied_haltTest.mp hlive).haltTest, hd, hx, State.memoryPhase_running hm ha₁, State.beginTick_running, hr]

/-! ### What an odd tick does -/

/-- An odd tick stores nothing, keeps D and E, and gives M what E holds. -/
theorem step_odd_keeps {s s' : State} (hr : s.running = true) (ha : s.abort = false) (he : s.evenTick = true)
    (h : step s = .next s') :
    s'.abort = false ∧ s'.mem = s.mem ∧ s'.D = s.D ∧ s'.E = s.E ∧ s'.M = s.E := by
  obtain ⟨s₁, s₂, hw, ho, hf, ha₂, rfl⟩ := step_odd_inv hr ha he h
  obtain ⟨hmem, hD, hE, hM, -⟩ := State.writebackPhase_keeps hw
  obtain ⟨hmem', hD', hE', hM', -⟩ := State.fetchPhase_keeps ho hf
  rw [State.beginTick_mem] at hmem
  rw [State.beginTick_D, if_pos he] at hD
  rw [State.beginTick_E, if_pos he] at hE
  rw [State.beginTick_M] at hM
  exact ⟨by rw [State.haltTest_abort, ha₂], by rw [State.haltTest_mem, hmem', hmem],
    by rw [State.haltTest_D, hD', hD], by rw [State.haltTest_E, hE', hE], by rw [State.haltTest_M, hM', hM]⟩

/-- An odd tick fetches the word at pc, if it is part of the program (R222). -/
theorem step_odd_fetches {s s' : State} (hr : s.running = true) (ha : s.abort = false) (he : s.evenTick = true)
    (hn : s.n.toNat ≤ Config.maxCount) (hp : s.pc.toNat < s.n.toNat) (h : step s = .next s') :
    s'.F = { Context.bubble with valid := true, word := Memory.read s.mem s.pc.toNat, pc := s.pc + 1 } := by
  obtain ⟨s₁, s₂, hw, ho, hf, -, rfl⟩ := step_odd_inv hr ha he h
  have hmem : s₁.mem = s.mem := (State.writebackPhase_keeps hw).1.trans s.beginTick_mem
  have hpc : s₁.pc = s.pc := (State.writebackPhase_frame hw).1.trans s.beginTick_pc
  have hn₁ : s₁.n = s.n := (State.writebackPhase_slotsKept hw).n.trans s.beginTick_n
  have hp₁ : s₁.pcInProgram = true := by rwa [State.pcInProgram, hpc, hn₁, decide_eq_true_eq]
  have hb : inBounds s₁.pc = true := State.inBounds_of_pcInProgram (by rwa [hn₁]) hp₁
  rw [eq_of_next hf (State.fetchPhase_fetch ho hp₁ hb), State.haltTest_F, State.fetchWord_F, hmem, hpc]

/-- From tick 7 an odd tick writes back the result of a live context arriving in W (R213, R217). -/
theorem step_odd_writes {s s' : State} (hr : s.running = true) (ha : s.abort = false) (he : s.evenTick = true)
    (ht : 6 ≤ s.t) (hM : s.M.live = true) (h : step s = .next s') :
    s'.regs = ((wbDest s.M.dec.instr).elim s fun ra => s.writeReg ra s.M.result).regs := by
  obtain ⟨s₁, s₂, hw, ho, hf, -, rfl⟩ := step_odd_inv hr ha he h
  have hodd := s.evenTick_iff.mp he
  have hact : s.beginTick.writebackActs = true := by
    rw [State.writebackActs_iff, State.beginTick_t, State.beginTick_W]
    exact ⟨by omega, by omega, hM⟩
  have hx := exec_writeback_eq s.beginTick.W.dec.instr (s := s.beginTick.setTurn .writeback) rfl
  have hs₁ := eq_of_next hw ((if_pos hact).trans (State.giveTurn_next hx))
  rw [State.haltTest_regs, (State.fetchPhase_frame ho hf).1, hs₁]
  simp only [State.setTurn_W, State.beginTick_W]
  cases wbDest s.M.dec.instr with
  | none => exact s.beginTick_regs
  | some ra => exact congrArg (fun regs => (regs.set ra.toNat s.M.result ra.isLt).set 0 0) s.beginTick_regs

/-! ### What an even tick does -/

/-- The copies of an even tick put D's context in E and F's in D (R214). -/
theorem State.beginTick_even_slots {s : State} (he : s.evenTick = false) :
    s.beginTick.E = s.D ∧ s.beginTick.D = s.F := by
  rw [State.beginTick_even he]
  exact ⟨rfl, rfl⟩


/-- What the Memory turn of an even tick leaves in memory, in M and in the abort flag stays to the end of the tick. -/
theorem step_even_memory {s s' : State} (hr : s.running = true) (he : s.evenTick = false) (h : step s = .next s') :
    ∃ s₁, s.beginTick.memoryPhase = .next s₁ ∧ s'.abort = s₁.abort ∧ s'.mem = s₁.mem ∧ s'.M = s₁.M := by
  obtain ⟨s₁, hm, ⟨-, rfl⟩ | ⟨-, s₂, s₃, hx, hd, rfl⟩⟩ := step_even_cases hr he h
  · exact ⟨_, hm, rfl, rfl, rfl⟩
  · obtain ⟨hmem, hM, -⟩ := State.executePhase_keeps hx
    obtain ⟨hmem', -, hM', -⟩ := State.decodePhase_keeps hd
    refine ⟨s₁, hm, ?_, ?_, ?_⟩
    · rw [State.haltTest_abort, (State.decodePhase_frame hd).2.2, (State.executePhase_frame hx).2]
    · rw [State.haltTest_mem, hmem', hmem]
    · rw [State.haltTest_M, hM', hM]

/-- Without a live context for its Memory turn, an even tick neither stores nor aborts. -/
theorem step_even_quiet {s s' : State} (hr : s.running = true) (he : s.evenTick = false) (hE : s.E.live = false)
    (h : step s = .next s') : s'.abort = s.abort ∧ s'.mem = s.mem ∧ s'.M = s.E := by
  obtain ⟨s₁, hm, ha, hmem, hM⟩ := step_even_memory hr he h
  have hs₁ := eq_of_next hm (State.memoryPhase_of_dead (by rwa [State.beginTick_M]))
  rw [hs₁] at ha hmem hM
  exact ⟨ha.trans s.beginTick_abort, hmem.trans s.beginTick_mem, hM.trans s.beginTick_M⟩

/-- An even tick writes no register (R33). -/
theorem step_even_regs {s s' : State} (he : s.evenTick = false) (h : step s = .next s') : s'.regs = s.regs := by
  rcases registersChangeOnlyAtWriteback s s' h with hregs | ⟨hr, hodd, -⟩
  · exact hregs
  · have := s.evenTick_eq_false_iff.mp he
    rw [step_t hr h] at hodd
    omega

/-- A tick without a live context arriving in W writes no register (R216). -/
theorem step_regs_of_dead {s s' : State} (hM : s.M.live = false) (h : step s = .next s') : s'.regs = s.regs := by
  rcases registersChangeOnlyAtWriteback s s' h with hregs | ⟨-, -, -, hlive, -⟩
  · exact hregs
  · rw [hM] at hlive
    cases hlive

end Sys2Proof.Machine

/-! ### One instruction on its way through the pipeline -/

namespace Sys2Proof.Machine

/-! ### A context on its way through the pipeline -/

/-- A live context of the word `w` with own pc `p` (R44). -/
structure Context.Carries (c : Context) (w p : Word) : Prop where
  live : c.live = true
  word : c.word = w
  pc : c.pc = p

/-- Past Decode, with the operands the registers of `s₀` held (R220). -/
structure Context.Latched (c : Context) (w p : Word) (s₀ : State) : Prop extends c.Carries w p where
  dec : c.dec = decodeFields w
  valB : c.valB = s₀.readReg (fieldB w)
  valC : c.valC = s₀.readReg (fieldC w)

theorem Context.Latched.congr {c : Context} {w p : Word} {s s' : State} (hc : c.Latched w p s) (h : s'.regs = s.regs) :
    c.Latched w p s' :=
  { hc with valB := by rw [hc.valB, State.readReg_congr h], valC := by rw [hc.valC, State.readReg_congr h] }

/-- Past Execute, with the value or the address that the instruction has in `s₀` (R146, R172). -/
structure Context.Computed (c : Context) (w p : Word) (s₀ : State) : Prop extends c.Carries w p where
  dec : c.dec = decodeFields w
  result : ∀ r v, netValue (decode w) s₀ = some (r, v) → c.result = v
  ea : ∀ a, netAddress (decode w) s₀ = some a → c.ea = a

/-- Past Memory, with the value that the instruction writes from `s₀` (R121, R170). -/
structure Context.Completed (c : Context) (w p : Word) (s₀ : State) : Prop extends c.Carries w p where
  dec : c.dec = decodeFields w
  result : ∀ r v, netWrite (decode w) s₀ = some (r, v) → c.result = v

/-- A context arriving in D behind a dead one stays live: Execute makes no mark. -/
theorem step_even_unmarked {s s' : State} (hr : s.running = true) (he : s.evenTick = false) (hD : s.D.live = false)
    (h : step s = .next s') (ha : s'.abort = false) : s'.D.live = s.F.live := by
  obtain ⟨s₁, s₂, s₃, hm, hx, -, hd, -, rfl⟩ := step_even_inv hr he h ha
  obtain ⟨-, -, hE₁, hD₁, -⟩ := State.memoryPhase_frame hm
  obtain ⟨hE₀, hD₀⟩ := State.beginTick_even_slots he
  obtain rfl := eq_of_next hx (State.executePhase_of_dead (by rwa [hE₁, hE₀]))
  rw [State.haltTest_D, ← hD₀, ← hD₁]
  rcases State.decodePhase_inv hd with ⟨-, rfl⟩ | ⟨-, rfl⟩ <;> rfl

/-- The Decode turn of a context that Execute has not marked. -/
theorem step_even_latches {s s' : State} {w p : Word} (hr : s.running = true) (he : s.evenTick = false)
    (hF : s.F.Carries w p) (h : step s = .next s') (ha : s'.abort = false) (hD : s'.D.live = true) :
    s'.D.Latched w p s := by
  obtain ⟨s₁, s₂, s₃, hm, hx, he₁, hd, -, rfl⟩ := step_even_inv hr he h ha
  obtain ⟨hregs₁, -, -, hD₁, -⟩ := State.memoryPhase_frame hm
  obtain ⟨hregs₂, -⟩ := State.executePhase_frame hx
  obtain ⟨-, -, -, hD₂⟩ := State.executePhase_keeps hx
  rw [hD₁, (State.beginTick_even_slots he).2] at hD₂
  have hregs : s₂.regs = s.regs := by rw [hregs₂, hregs₁, State.beginTick_regs]
  have he₂ : s₂.evenTick = true := by rw [State.evenTick_congr (State.executePhase_slotsKept hx).t, he₁]
  have hword : s₂.D.word = w := by rw [hD₂, ← hF.word]
  have hpc : s₂.D.pc = p := by rw [hD₂, ← hF.pc]
  rw [State.haltTest_D] at hD ⊢
  rcases State.decodePhase_inv hd with ⟨hact, rfl⟩ | ⟨-, rfl⟩
  · rw [(State.decodeActs_iff _).mpr ⟨(State.evenTick_iff _).mp he₂, hD⟩] at hact
    cases hact
  · rw [State.setTurn_D, State.latchOperands_D, State.readReg_congr hregs, State.readReg_congr hregs, hword]
    exact ⟨⟨hD, hword, hpc⟩, rfl, rfl, rfl⟩

/-- The Execute turn. -/
theorem step_even_computes {s s' s₀ : State} {w p : Word} (hr : s.running = true) (he : s.evenTick = false)
    (hD : s.D.Latched w p s₀) (h : step s = .next s') (ha : s'.abort = false) : s'.E.Computed w p s₀ := by
  obtain ⟨s₁, s₂, s₃, hm, hx, he₁, hd, -, rfl⟩ := step_even_inv hr he h ha
  obtain ⟨-, -, hE₁, -⟩ := State.memoryPhase_frame hm
  rw [(State.beginTick_even_slots he).1] at hE₁
  have hact : s₁.executeActs = true := s₁.executeActs_iff.mpr ⟨s₁.evenTick_iff.mp he₁, by rw [hE₁, hD.live]⟩
  rw [State.executePhase, if_pos hact, hE₁, hD.dec] at hx
  obtain ⟨s₂', hexec, hs₂⟩ := andThen_eq_next hx
  cases hs₂
  obtain ⟨hresult, hea⟩ := exec_execute_computes (w := w) (s₀ := s₀) rfl
    (by rw [State.setTurn_E, hE₁, hD.valB]; exact congrArg _ (portB_decode w).symm)
    (by rw [State.setTurn_E, hE₁, hD.valC]; exact congrArg _ (portC_decode w).symm) hexec
  obtain ⟨s₂'', hexec', heffect⟩ := exec_execute_cases (decodeFields w).instr (s := s₁.setTurn .execute) rfl
  obtain rfl := eq_of_next hexec hexec'
  obtain ⟨-, -, -, -, hE₂⟩ := heffect.keeps
  obtain ⟨-, hE₃, -⟩ := State.decodePhase_keeps hd
  rw [State.setTurn_E, hE₁] at hE₂
  rw [State.haltTest_E, hE₃, State.setTurn_E]
  refine ⟨⟨?_, ?_, ?_⟩, ?_, hresult, hea⟩ <;> rw [hE₂]
  · exact hD.live
  · exact hD.word
  · exact hD.pc
  · exact hD.dec

/-- The Memory turn, for an access inside memory, when registers and memory are those of `s₀`. -/
theorem step_even_completes {s s' s₀ : State} {w p : Word} (hr : s.running = true) (he : s.evenTick = false)
    (ha : s.abort = false) (ht : 5 ≤ s.t) (hE : s.E.Computed w p s₀) (hregs : s.regs = s₀.regs) (hmem : s.mem = s₀.mem)
    (hb : ∀ a, netAddress (decode w) s₀ = some a → inBounds a = true) (h : step s = .next s') :
    s'.abort = false ∧ s'.mem = (netEffect (decode w) s₀).mem ∧ s'.M.Completed w p s₀ := by
  obtain ⟨s₁, hm, ha', hmem', hM⟩ := step_even_memory hr he h
  have hodd := s.evenTick_eq_false_iff.mp he
  have hact : s.beginTick.memoryActs = true := by
    rw [State.memoryActs_iff, State.beginTick_t, State.beginTick_M]
    exact ⟨by omega, by omega, hE.live⟩
  obtain ⟨u, hexec, hu⟩ := exec_memory_net (i := decode w) (s := s.beginTick.setTurn .memory) (s₀ := s₀) rfl
    (s.beginTick_regs.trans hregs) (s.beginTick_mem.trans hmem)
    (by rw [State.setTurn_M, State.beginTick_M]; exact hE.result)
    (by rw [State.setTurn_M, State.beginTick_M]; exact hE.ea) hb
  have hdec : s.beginTick.M.dec.instr = decode w := by rw [State.beginTick_M, hE.dec]; rfl
  rw [State.memoryPhase, if_pos hact, hdec] at hm
  rw [eq_of_next hm (State.giveTurn_next hexec)] at ha' hmem' hM
  refine ⟨ha'.trans (s.beginTick_abort.trans ha), hmem', ?_⟩
  have hM : s'.M = { s.E with result := u } := by rw [← State.beginTick_M]; exact hM
  rw [hM]
  exact ⟨⟨hE.live, hE.word, hE.pc⟩, hE.dec, hu⟩

/-- The Write-back turn, when the registers are those of `s₀`. -/
theorem step_odd_writes_net {s s' s₀ : State} {w p : Word} (hr : s.running = true) (ha : s.abort = false)
    (he : s.evenTick = true) (ht : 6 ≤ s.t) (hM : s.M.Completed w p s₀) (hregs : s.regs = s₀.regs)
    (hb : ∀ a, netAddress (decode w) s₀ = some a → inBounds a = true) (h : step s = .next s') :
    s'.regs = (netEffect (decode w) s₀).regs := by
  have hdec : s.M.dec.instr = decode w := congrArg Fields.instr hM.dec
  rw [step_odd_writes hr ha he ht hM.live h, hdec]
  rcases wbDest_cases hb with ⟨hdest, hnet⟩ | ⟨r, v, hdest, hwrite⟩
  · rw [hdest, hnet, Option.elim_none, hregs]
  · rw [hdest, netEffect_of_netWrite hwrite, Option.elim_some, hM.result r v hwrite, State.writeReg_regs,
      State.writeReg_regs, hregs]

/-! ### Runs, tick by tick -/

/-- One tick more at the end of a run. -/
theorem runTicks_snoc {k : Nat} {s s' s'' : State} (h : runTicks k s = .next s') (h' : step s' = .next s'') :
    runTicks (k + 1) s = .next s'' := by
  induction k generalizing s with
  | zero =>
    cases h
    rw [runTicks_succ, h', andThen_next, runTicks_zero]
  | succ k ih =>
    rw [runTicks_succ] at h
    obtain ⟨s₁, hs₁, h⟩ := andThen_eq_next h
    rw [runTicks_succ, hs₁, andThen_next, ih h]

/-- `k` ticks after `s₀` the run is in `s` and goes on. -/
structure State.Runs (s₀ : State) (k : Nat) (s : State) : Prop where
  run : runTicks k s₀ = .next s
  running : s.running = true
  notAborted : s.abort = false
  t : s.t = s₀.t + k
  n : s.n = s₀.n

/-- The same, and nothing has been written since. -/
structure State.RunsUnwritten (s₀ : State) (k : Nat) (s : State) : Prop extends s₀.Runs k s where
  regs : s.regs = s₀.regs
  mem : s.mem = s₀.mem

theorem State.Runs.next {s₀ s s' : State} {k : Nat} (hk : s₀.Runs k s) (h : step s = .next s') (ha : s'.abort = false)
    (hlive : s'.Occupied) : s₀.Runs (k + 1) s' where
  run := runTicks_snoc hk.run h
  running := step_running hk.running hk.notAborted h ha hlive
  notAborted := ha
  t := by rw [step_t hk.running h, hk.t]; rfl
  n := by rw [(step_slotsKept hk.running h).n, State.beginTick_n, hk.n]

theorem State.Runs.exists_step {s₀ s : State} {k : Nat} (hk : s₀.Runs k s) (hn : s₀.n.toNat ≤ Config.maxCount) :
    ∃ s', step s = .next s' :=
  step_next (by rwa [hk.n])

theorem State.Runs.evenTick {s₀ s : State} {k : Nat} (hk : s₀.Runs k s) (he : s₀.evenTick = true) (h2 : k % 2 = 0) :
    s.evenTick = true := by
  have := s₀.evenTick_iff.mp he
  rw [State.evenTick_iff, hk.t]
  omega

theorem State.Runs.oddTick {s₀ s : State} {k : Nat} (hk : s₀.Runs k s) (he : s₀.evenTick = true) (h2 : k % 2 = 1) :
    s.evenTick = false := by
  have := s₀.evenTick_iff.mp he
  rw [State.evenTick_eq_false_iff, hk.t]
  omega

theorem State.RunsUnwritten.odd {s₀ s s' : State} {k : Nat} (hk : s₀.RunsUnwritten k s) (he : s.evenTick = true)
    (hM : s.M.live = false) (h : step s = .next s')
    (hlive : s'.Occupied) :
    s₀.RunsUnwritten (k + 1) s' := by
  obtain ⟨ha, hmem, -⟩ := step_odd_keeps hk.running hk.notAborted he h
  exact ⟨hk.next h ha hlive, (step_regs_of_dead hM h).trans hk.regs, hmem.trans hk.mem⟩

theorem State.RunsUnwritten.even {s₀ s s' : State} {k : Nat} (hk : s₀.RunsUnwritten k s) (he : s.evenTick = false)
    (hE : s.E.live = false) (h : step s = .next s')
    (hlive : s'.Occupied) :
    s₀.RunsUnwritten (k + 1) s' := by
  obtain ⟨ha, hmem, -⟩ := step_even_quiet hk.running he hE h
  exact ⟨hk.next h (ha.trans hk.notAborted) hlive, (step_even_regs he h).trans hk.regs, hmem.trans hk.mem⟩

/-! ### One instruction from its fetch to its Write-back (R224) -/

namespace State.ReadyToFetch

variable {s : State}

theorem runs (h : s.ReadyToFetch) : s.RunsUnwritten 0 s :=
  ⟨⟨rfl, h.running, h.notAborted, rfl, rfl⟩, rfl, rfl⟩

/-- Tick 1: the instruction stands in F, alone. -/
theorem afterFetch (h : s.ReadyToFetch) :
    ∃ s₁, s.RunsUnwritten 1 s₁ ∧ s₁.F.Carries (Memory.read s.mem s.pc.toNat) (s.pc + 1) ∧
      s₁.D.live = false ∧ s₁.E.live = false := by
  obtain ⟨s₁, h₁⟩ := step_next h.count
  have hF := step_odd_fetches h.running h.notAborted h.evenTick h.count h.inProgram h₁
  have hcarries : s₁.F.Carries (Memory.read s.mem s.pc.toNat) (s.pc + 1) := by rw [hF]; exact ⟨rfl, rfl, rfl⟩
  obtain ⟨-, -, hD, hE, -⟩ := step_odd_keeps h.running h.notAborted h.evenTick h₁
  exact ⟨s₁, h.runs.odd h.evenTick h.slotM h₁ (.inl hcarries.live), hcarries, by rw [hD, h.slotD], by rw [hE, h.slotE]⟩

/-- Tick 2: the instruction stands in D with its operands. -/
theorem afterDecode (h : s.ReadyToFetch) :
    ∃ s₂, s.RunsUnwritten 2 s₂ ∧ s₂.D.Latched (Memory.read s.mem s.pc.toNat) (s.pc + 1) s ∧
      s₂.E.live = false ∧ s₂.M.live = false := by
  obtain ⟨s₁, r₁, hF, hD, hE⟩ := h.afterFetch
  obtain ⟨s₂, h₂⟩ := r₁.exists_step h.count
  have he := r₁.oddTick h.evenTick rfl
  obtain ⟨ha, -, hM₂⟩ := step_even_quiet r₁.running he hE h₂
  have ha₂ := ha.trans r₁.notAborted
  have hlatched := step_even_latches r₁.running he hF h₂ ha₂
    ((step_even_unmarked r₁.running he hD h₂ ha₂).trans hF.live)
  have hE₂ : s₂.E.live = false := by
    rw [(step_slotsKept r₁.running h₂).liveE, (State.beginTick_even_slots he).1, hD]
  exact ⟨s₂, r₁.even he hE h₂ (.inr (.inl hlatched.live)), hlatched.congr r₁.regs.symm, hE₂, by rw [hM₂, hE]⟩

/-- Tick 4: the instruction stands in E with its value or its address. -/
theorem afterExecute (h : s.ReadyToFetch) :
    ∃ s₄, s.RunsUnwritten 4 s₄ ∧ s₄.E.Computed (Memory.read s.mem s.pc.toNat) (s.pc + 1) s ∧ s₄.M.live = false := by
  obtain ⟨s₂, r₂, hD, hE, hM⟩ := h.afterDecode
  obtain ⟨s₃, h₃⟩ := r₂.exists_step h.count
  have he₂ := r₂.evenTick h.evenTick rfl
  obtain ⟨-, -, hD₃, hE₃, -⟩ := step_odd_keeps r₂.running r₂.notAborted he₂ h₃
  rw [← hD₃] at hD
  rw [← hE₃] at hE
  have r₃ := r₂.odd he₂ hM h₃ (.inr (.inl hD.live))
  obtain ⟨s₄, h₄⟩ := r₃.exists_step h.count
  have he₃ := r₃.oddTick h.evenTick rfl
  obtain ⟨ha, -, hM₄⟩ := step_even_quiet r₃.running he₃ hE h₄
  have hcomputed := step_even_computes r₃.running he₃ hD h₄ (ha.trans r₃.notAborted)
  exact ⟨s₄, r₃.even he₃ hE h₄ (.inr (.inr (.inl hcomputed.live))), hcomputed, by rw [hM₄, hE]⟩

/-- Tick 6: the instruction stands in M, its access made inside memory. -/
theorem afterMemory (h : s.ReadyToFetch) (hb : ∀ a, netAddress (s.instrAt s.pc.toNat) s = some a → inBounds a = true) :
    ∃ s₆, s.Runs 6 s₆ ∧ s₆.regs = s.regs ∧ s₆.mem = (netEffect (s.instrAt s.pc.toNat) s).mem ∧
      s₆.M.Completed (Memory.read s.mem s.pc.toNat) (s.pc + 1) s := by
  obtain ⟨s₄, r₄, hE, hM⟩ := h.afterExecute
  obtain ⟨s₅, h₅⟩ := r₄.exists_step h.count
  have he₄ := r₄.evenTick h.evenTick rfl
  obtain ⟨-, -, -, hE₅, -⟩ := step_odd_keeps r₄.running r₄.notAborted he₄ h₅
  rw [← hE₅] at hE
  have r₅ := r₄.odd he₄ hM h₅ (.inr (.inr (.inl hE.live)))
  obtain ⟨s₆, h₆⟩ := r₅.exists_step h.count
  have he₅ := r₅.oddTick h.evenTick rfl
  obtain ⟨ha, hmem, hcompleted⟩ := step_even_completes r₅.running he₅ r₅.notAborted (by rw [r₅.t]; omega) hE r₅.regs
    r₅.mem hb h₆
  exact ⟨s₆, r₅.next h₆ ha (.inr (.inr (.inr hcompleted.live))), (step_even_regs he₅ h₆).trans r₅.regs, hmem, hcompleted⟩

end State.ReadyToFetch

/-- Settles O49: the seventh tick writes back what the sixth left in M. -/
theorem sevenTicksAreTheNetEffect : Obligations.SevenTicksAreTheNetEffect := by
  intro s h hb
  obtain ⟨s₆, r₆, hregs, hmem, hM⟩ := h.afterMemory hb
  obtain ⟨s₇, h₇⟩ := r₆.exists_step h.count
  have he := r₆.evenTick h.evenTick rfl
  obtain ⟨ha, hmem₇, -⟩ := step_odd_keeps r₆.running r₆.notAborted he h₇
  exact ⟨s₇, runTicks_snoc r₆.run h₇, ha,
    step_odd_writes_net r₆.running r₆.notAborted he (by rw [r₆.t]; omega) hM hregs hb h₇, hmem₇.trans hmem⟩

end Sys2Proof.Machine

/-! ### The family of file 41: the shifts -/

namespace Sys2Proof.Machine

/-! ### The values of the shifts, by the amount (R160 to R162) -/

theorem shiftLeft_of_lt {n : Shamt} (h : n.toNat < 32) (v : Word) :
    shiftLeft v n = BitVec.ofNat 32 (v.toNat * 2 ^ n.toNat) := if_pos h

theorem shiftRight_of_lt {n : Shamt} (h : n.toNat < 32) (v : Word) :
    shiftRight v n = BitVec.ofNat 32 (v.toNat / 2 ^ n.toNat) := if_pos h

/-- Every bit is shifted out (decision D3). -/
theorem shiftLeft_of_ge {n : Shamt} (h : 32 ≤ n.toNat) (v : Word) : shiftLeft v n = 0 := if_neg h.not_gt

/-- Every bit is shifted out (decision D3). -/
theorem shiftRight_of_ge {n : Shamt} (h : 32 ≤ n.toNat) (v : Word) : shiftRight v n = 0 := if_neg h.not_gt

/-- Settles O14: the shared stage pattern, with the Execute value split at an amount of 32. -/
theorem lslLsrTurns : Obligations.LslLsrTurns := by
  intro s ra rb n
  obtain ⟨lslD, lslE, lslM, lslW⟩ := exec_of_valueTurns (i := .lsl ra rb n) (s := s) rfl
  obtain ⟨lsrD, lsrE, lsrM, lsrW⟩ := exec_of_valueTurns (i := .lsr ra rb n) (s := s) rfl
  refine ⟨fun h => ⟨lslD h, lsrD h⟩, fun h hn => ?below, fun h hn => ?fromWidth, fun h => ⟨lslM h, lsrM h⟩,
    fun h => ⟨lslW h, lsrW h⟩⟩
  case below =>
    rw [← shiftLeft_of_lt hn, ← shiftRight_of_lt hn]
    exact ⟨lslE h, lsrE h⟩
  case fromWidth =>
    rw [shiftLeft_of_ge hn] at lslE
    rw [shiftRight_of_ge hn] at lsrE
    exact ⟨lslE h, lsrE h⟩

end Sys2Proof.Machine

/-! ### The family of file 42: load and store

The turns of MOVR and MOVM; who writes memory; and two instructions back to back on their way through the pipeline. -/

namespace Sys2Proof.Machine

open Host (Outcome)

/-! ### The turns of MOVR and MOVM -/

theorem inBounds_eq_false_iff (a : Word) : inBounds a = false ↔ 2048 ≤ a.toNat := by
  rw [← Bool.not_eq_true, inBounds_iff, Nat.not_lt]

theorem exec_movr_execute {s : State} (h : s.turn = .execute) (ra rb : RegIdx) (imm : Word) :
    exec (.movr ra rb imm) s = .next (s.setEa imm) := by
  simp only [exec, execMovr, h]

theorem exec_movm_execute {s : State} (h : s.turn = .execute) (ra rb : RegIdx) (imm : Word) :
    exec (.movm ra rb imm) s = .next (s.setEa imm) := by
  simp only [exec, execMovm, h]

theorem exec_movr_memory {s : State} (h : s.turn = .memory) (ra rb : RegIdx) (imm : Word) :
    exec (.movr ra rb imm) s = .next s.loadTurn := by
  simp only [exec, execMovr, h]

theorem exec_movm_memory {s : State} (h : s.turn = .memory) (ra rb : RegIdx) (imm : Word) :
    exec (.movm ra rb imm) s = .next (s.storeTurn ra) := by
  simp only [exec, execMovm, h]

/-- Settles O15. -/
theorem movrTurns : Obligations.MovrTurns := fun s ra rb imm =>
  ⟨fun h => exec_decode_eq _ h, fun h => exec_movr_execute h ra rb imm,
    fun h hin => by rw [exec_movr_memory h, State.loadTurn_in ((inBounds_iff _).mpr hin)]; rfl,
    fun h => exec_writeback_eq _ h⟩

/-- Settles O16: the memory after the turn is the one `Memory.write` makes. -/
theorem movmTurns : Obligations.MovmTurns := by
  intro s ra rb imm
  refine ⟨fun h => exec_decode_eq _ h, fun h => exec_movm_execute h ra rb imm, fun h hin hwf => ?memory,
    fun h => exec_writeback_eq _ h⟩
  case memory =>
    refine ⟨Memory.write s.mem s.M.ea.toNat (s.readReg ra), ?_, Memory.write_wf hwf hin _, ?_, fun a ha => ?_⟩
    · rw [exec_movm_memory h, State.storeTurn_in ra ((inBounds_iff _).mpr hin)]
      rfl
    · rw [Memory.read_write hwf, if_pos rfl]
    · rw [Memory.read_write hwf, if_neg ha]

/-- Settles O17. -/
theorem outOfBoundsMemoryTurnAborts : Obligations.OutOfBoundsMemoryTurnAborts := by
  intro s ra rb imm h hout
  have hb := (inBounds_eq_false_iff _).mpr hout
  rw [exec_movr_memory h, exec_movm_memory h, State.loadTurn_out hb, State.storeTurn_out ra hb]
  exact ⟨rfl, rfl⟩

/-! ### Who writes memory -/

theorem fields_of_instr_eq_movm {f : Fields} {ra rb : RegIdx} {imm : Word} (h : f.instr = .movm ra rb imm) :
    f.op = 11#4 ∧ ra = f.rA ∧ rb = f.rB ∧ imm = f.imm := by
  unfold Fields.instr at h
  split at h <;> cases h
  rename_i hop
  exact ⟨opcode_eq_of_toNat hop, rfl, rfl, rfl⟩

/-- The Memory turn changes memory only for a MOVM with its address inside it (R171). -/
theorem exec_memory_mem {i : Instr} {s s' : State} (ht : s.turn = .memory) (h : exec i s = .next s') :
    s'.mem = s.mem ∨
      ∃ ra rb imm, i = .movm ra rb imm ∧ inBounds s.M.ea = true ∧
        s'.mem = Memory.write s.mem s.M.ea.toNat (s.readReg ra) := by
  cases hn : netAddress i s with
  | none =>
    obtain ⟨-, -, hexec⟩ := noAccess_of_netAddress_eq_none hn
    exact .inl (congrArg State.mem (eq_of_next h (hexec s ht)))
  | some a =>
    cases i with
    | movr ra rb imm =>
      obtain rfl := eq_of_next h (exec_movr_memory ht ra rb imm)
      cases hb : inBounds s.M.ea with
      | true => exact .inl (by rw [State.loadTurn_in hb]; rfl)
      | false => exact .inl (by rw [State.loadTurn_out hb]; rfl)
    | movm ra rb imm =>
      obtain rfl := eq_of_next h (exec_movm_memory ht ra rb imm)
      cases hb : inBounds s.M.ea with
      | true => exact .inr ⟨ra, rb, imm, rfl, rfl, by rw [State.storeTurn_in ra hb]; rfl⟩
      | false => exact .inl (by rw [State.storeTurn_out ra hb]; rfl)
    | _ => cases hn

/-- Memory changes memory only for a live MOVM in M with its address inside it (R218). -/
theorem State.memoryPhase_mem {s s' : State} (h : s.memoryPhase = .next s') :
    s'.mem = s.mem ∨
      s.memoryActs = true ∧ s.M.dec.op = 11#4 ∧ inBounds s.M.ea = true ∧
        s'.mem = Memory.write s.mem s.M.ea.toNat (s.readReg s.M.dec.rA) := by
  cases hact : s.memoryActs with
  | false => exact .inl (congrArg State.mem (eq_of_next h (if_neg (by simp [hact]))))
  | true =>
    rw [State.memoryPhase, if_pos hact] at h
    obtain ⟨s₁, hx, h⟩ := andThen_eq_next h
    cases h
    rcases exec_memory_mem rfl hx with hmem | ⟨ra, rb, imm, hi, hb, hmem⟩
    · exact .inl hmem
    · obtain ⟨hop, rfl, -⟩ := fields_of_instr_eq_movm hi
      exact .inr ⟨rfl, hop, hb, hmem⟩

/-- An odd tick stores nothing, whether or not the run has aborted. -/
theorem step_odd_mem {s s' : State} (hr : s.running = true) (he : s.evenTick = true) (h : step s = .next s') :
    s'.mem = s.mem := by
  obtain ⟨s₁, hw, ho, hrest⟩ := step_odd_cases hr he h
  have hmem := (State.writebackPhase_keeps hw).1.trans s.beginTick_mem
  rcases hrest with ⟨-, rfl⟩ | ⟨-, s₂, hf, rfl⟩
  · exact hmem
  · rw [State.haltTest_mem, (State.fetchPhase_keeps ho hf).1, hmem]

/-- Settles O36: of the phases only Memory writes memory. -/
theorem memoryChangesOnlyByStore : Obligations.MemoryChangesOnlyByStore := by
  intro s s' hwf h
  cases hr : s.running with
  | false =>
    rw [step_of_not_running hr] at h
    cases h
    exact .inl rfl
  | true =>
    cases he : s.evenTick with
    | true => exact .inl (step_odd_mem hr he h)
    | false =>
      obtain ⟨s₁, hm, -, hmem', -⟩ := step_even_memory hr he h
      rcases State.memoryPhase_mem hm with hmem | ⟨hact, hop, hb, hmem⟩
      · exact .inl (by rw [hmem', hmem, State.beginTick_mem])
      · rw [State.memoryActs_iff, State.beginTick_M, State.beginTick_t, ← step_t hr h] at hact
        obtain ⟨heven, h6, hlive⟩ := hact
        rw [State.beginTick_M] at hop hb
        rw [State.beginTick_M, State.beginTick_mem, State.readReg_congr s.beginTick_regs, ← hmem'] at hmem
        refine .inr ⟨rfl, heven, h6, hlive, hop, (inBounds_iff _).mp hb, ?_, fun a ha => ?_⟩
        · rw [hmem, Memory.read_write hwf, if_pos rfl]
        · rw [hmem, Memory.read_write hwf, if_neg ha]

end Sys2Proof.Machine

/-! ### Two instructions back to back -/

namespace Sys2Proof.Machine

open Host (Outcome)

/-! ### The reading of an instruction from equal registers -/

theorem netValue_congr {s s' : State} (h : s'.regs = s.regs) (i : Instr) : netValue i s' = netValue i s := by
  cases i <;> simp only [netValue, State.readReg_congr h]

theorem netAddress_congr {s s' : State} (h : s'.regs = s.regs) (i : Instr) : netAddress i s' = netAddress i s := by
  cases i <;> simp only [netAddress, State.readReg_congr h]

theorem Context.Computed.congr {c : Context} {w p : Word} {s s' : State} (hc : c.Computed w p s)
    (h : s'.regs = s.regs) : c.Computed w p s' :=
  { hc with
    result := by rw [netValue_congr h]; exact hc.result
    ea := by rw [netAddress_congr h]; exact hc.ea }

/-! ### pc and the marks behind an instruction that is no transfer -/

theorem toNat_add_one_of_lt {a : Word} {n : BitVec 12} (h : a.toNat < n.toNat) : (a + 1).toNat = a.toNat + 1 := by
  have := n.isLt
  bv_omega

/-- An odd tick that fetches advances pc (R222). -/
theorem step_odd_pc {s s' : State} (hr : s.running = true) (ha : s.abort = false) (he : s.evenTick = true)
    (hp : s.pc.toNat < s.n.toNat) (h : step s = .next s') : s'.pc = s.pc + 1 := by
  obtain ⟨s₁, s₂, hw, ho, hf, -, rfl⟩ := step_odd_inv hr ha he h
  have hpc : s₁.pc = s.pc := (State.writebackPhase_frame hw).1.trans s.beginTick_pc
  have hn : s₁.n = s.n := (State.writebackPhase_slotsKept hw).n.trans s.beginTick_n
  rcases State.fetchPhase_inv ho hf with ⟨-, w, rfl⟩ | ⟨hp', -⟩
  · rw [State.haltTest_pc, State.fetchWord_pc, hpc]
  · rw [State.pcInProgram, hpc, hn, decide_eq_false_iff_not] at hp'
    exact absurd hp hp'

/-- An even tick without a live context arriving in E leaves pc alone (R37). -/
theorem step_even_pc_of_dead {s s' : State} (he : s.evenTick = false) (hD : s.D.live = false) (h : step s = .next s') :
    s'.pc = s.pc := by
  have hodd := s.evenTick_eq_false_iff.mp he
  rcases pcChangesOnlyByFetchOrRedirect s s' h with hpc | ⟨hr, ht, -⟩ | ⟨-, -, hlive, -⟩ | ⟨-, -, hlive, -⟩
  · exact hpc
  · rw [step_t hr h] at ht
    omega
  · rw [hD] at hlive
    cases hlive
  · rw [hD] at hlive
    cases hlive

/-- Only a transfer marks the context in D at its Execute turn (R189). -/
theorem exec_execute_D {i : Instr} {s s' : State} (ht : s.turn = .execute) (hjeq : i.opcode ≠ 4#4) (hjmp : i.opcode ≠ 7#4)
    (h : exec i s = .next s') : s'.D = s.D := by
  cases i with
  | jeq => exact absurd rfl hjeq
  | jmp => exact absurd rfl hjmp
  | _ =>
    simp only [exec, execAdd, execSub, execMul, execMovi, execAnd, execXori, execLsl, execLsr, execMovr, execMovm,
      execUndef, State.valueTurns, ht, Outcome.next.injEq] at h
    subst h
    rfl

/-- Execute of a context that is no transfer leaves D alone. -/
theorem State.executePhase_D {s s' : State} (hjeq : s.E.dec.op ≠ 4#4) (hjmp : s.E.dec.op ≠ 7#4)
    (h : s.executePhase = .next s') : s'.D = s.D := by
  cases hact : s.executeActs with
  | false => exact congrArg State.D (eq_of_next h (if_neg (by simp [hact])))
  | true =>
    rw [State.executePhase, if_pos hact] at h
    obtain ⟨s₁, hexec, h⟩ := andThen_eq_next h
    cases h
    rw [← Fields.instr_opcode] at hjeq hjmp
    exact (exec_execute_D rfl hjeq hjmp hexec :)

/-- A context arriving in D behind one that is no transfer stays live. -/
theorem step_even_unmarked_of_no_transfer {s s' : State} (hr : s.running = true) (he : s.evenTick = false)
    (hjeq : s.D.dec.op ≠ 4#4) (hjmp : s.D.dec.op ≠ 7#4) (h : step s = .next s') (ha : s'.abort = false) :
    s'.D.live = s.F.live := by
  obtain ⟨s₁, s₂, s₃, hm, hx, -, hd, -, rfl⟩ := step_even_inv hr he h ha
  obtain ⟨-, -, hE₁, hD₁, -⟩ := State.memoryPhase_frame hm
  obtain ⟨hE₀, hD₀⟩ := State.beginTick_even_slots he
  rw [← hE₀, ← hE₁] at hjeq hjmp
  rw [State.haltTest_D, ← hD₀, ← hD₁, ← State.executePhase_D hjeq hjmp hx]
  rcases State.decodePhase_inv hd with ⟨-, rfl⟩ | ⟨-, rfl⟩ <;> rfl

/-! ### The second instruction, one fetch behind the first (R224) -/

namespace State.ReadyToFetch

variable {s : State}

/-- Of the first two ticks, only the fetch of the first moves pc. -/
theorem pc_after_two_ticks {s₂ : State} (h : s.ReadyToFetch) (hrun : runTicks 2 s = .next s₂) : s₂.pc = s.pc + 1 := by
  rw [runTicks_succ] at hrun
  obtain ⟨s₁, h₁, hrun⟩ := andThen_eq_next hrun
  rw [runTicks_succ] at hrun
  obtain ⟨s₂', h₂, hrun⟩ := andThen_eq_next hrun
  cases hrun
  obtain ⟨-, -, hD₁, -⟩ := step_odd_keeps h.running h.notAborted h.evenTick h₁
  have he₁ : s₁.evenTick = false := by
    rw [State.evenTick_succ (step_t h.running h₁), h.evenTick]
    rfl
  rw [step_even_pc_of_dead he₁ (by rw [hD₁, h.slotD]) h₂,
    step_odd_pc h.running h.notAborted h.evenTick h.inProgram h₁]

/-- Tick 3: the first instruction stands in D, the second in F. -/
theorem afterSecondFetch (h : s.ReadyToFetch) (hp : s.pc.toNat + 1 < s.n.toNat) :
    ∃ s₃, s.RunsUnwritten 3 s₃ ∧ s₃.D.Latched (Memory.read s.mem s.pc.toNat) (s.pc + 1) s ∧
      s₃.F.Carries (Memory.read s.mem (s.pc.toNat + 1)) (s.pc + 1 + 1) ∧ s₃.E.live = false := by
  obtain ⟨s₂, r₂, hD, hE, hM⟩ := h.afterDecode
  have hpc₂ := h.pc_after_two_ticks r₂.run
  have hnat : s₂.pc.toNat = s.pc.toNat + 1 := by rw [hpc₂, toNat_add_one_of_lt h.inProgram]
  have he₂ := r₂.evenTick h.evenTick rfl
  obtain ⟨s₃, h₃⟩ := r₂.exists_step h.count
  obtain ⟨-, -, hD₃, hE₃, -⟩ := step_odd_keeps r₂.running r₂.notAborted he₂ h₃
  have hF := step_odd_fetches r₂.running r₂.notAborted he₂ (by rw [r₂.n]; exact h.count) (by rwa [hnat, r₂.n]) h₃
  rw [hnat, hpc₂, r₂.mem] at hF
  rw [← hD₃] at hD
  exact ⟨s₃, r₂.odd he₂ hM h₃ (.inr (.inl hD.live)), hD, by rw [hF]; exact ⟨rfl, rfl, rfl⟩, by rw [hE₃, hE]⟩

section NoTransfer

variable (hjeq : (s.instrAt s.pc.toNat).opcode ≠ 4#4) (hjmp : (s.instrAt s.pc.toNat).opcode ≠ 7#4)

include hjeq hjmp

/-- Tick 4: the first instruction, no transfer, stands in E and the second in D, its operands latched. -/
theorem afterSecondDecode (h : s.ReadyToFetch) (hp : s.pc.toNat + 1 < s.n.toNat) :
    ∃ s₄, s.RunsUnwritten 4 s₄ ∧ s₄.E.Computed (Memory.read s.mem s.pc.toNat) (s.pc + 1) s ∧
      s₄.D.Latched (Memory.read s.mem (s.pc.toNat + 1)) (s.pc + 1 + 1) s ∧ s₄.M.live = false := by
  obtain ⟨s₃, r₃, hD, hF, hE⟩ := h.afterSecondFetch hp
  obtain ⟨s₄, h₄⟩ := r₃.exists_step h.count
  have he₃ := r₃.oddTick h.evenTick rfl
  obtain ⟨ha, -, hM₄⟩ := step_even_quiet r₃.running he₃ hE h₄
  have ha₄ := ha.trans r₃.notAborted
  have hcomputed := step_even_computes r₃.running he₃ hD h₄ ha₄
  have hop : s₃.D.dec.op = (s.instrAt s.pc.toNat).opcode := by
    rw [hD.dec, ← Fields.instr_opcode]
    rfl
  rw [← hop] at hjeq hjmp
  have hlatched := step_even_latches r₃.running he₃ hF h₄ ha₄
    ((step_even_unmarked_of_no_transfer r₃.running he₃ hjeq hjmp h₄ ha₄).trans hF.live)
  exact ⟨s₄, r₃.even he₃ hE h₄ (.inr (.inl hlatched.live)), hcomputed, hlatched.congr r₃.regs.symm, by rw [hM₄, hE]⟩

/-- Tick 6: the first instruction stands in M, its access made inside memory, and the second in E with its value or its
address. -/
theorem afterSecondExecute (h : s.ReadyToFetch) (hp : s.pc.toNat + 1 < s.n.toNat)
    (hb : ∀ a, netAddress (s.instrAt s.pc.toNat) s = some a → inBounds a = true) :
    ∃ s₆, s.Runs 6 s₆ ∧ s₆.regs = s.regs ∧ s₆.mem = (netEffect (s.instrAt s.pc.toNat) s).mem ∧
      s₆.M.Completed (Memory.read s.mem s.pc.toNat) (s.pc + 1) s ∧
      s₆.E.Computed (Memory.read s.mem (s.pc.toNat + 1)) (s.pc + 1 + 1) s := by
  obtain ⟨s₄, r₄, hE, hD, hM⟩ := h.afterSecondDecode hjeq hjmp hp
  obtain ⟨s₅, h₅⟩ := r₄.exists_step h.count
  have he₄ := r₄.evenTick h.evenTick rfl
  obtain ⟨-, -, hD₅, hE₅, -⟩ := step_odd_keeps r₄.running r₄.notAborted he₄ h₅
  rw [← hE₅] at hE
  rw [← hD₅] at hD
  have r₅ := r₄.odd he₄ hM h₅ (.inr (.inl hD.live))
  obtain ⟨s₆, h₆⟩ := r₅.exists_step h.count
  have he₅ := r₅.oddTick h.evenTick rfl
  obtain ⟨ha, hmem, hcompleted⟩ := step_even_completes r₅.running he₅ r₅.notAborted (by rw [r₅.t]; omega) hE r₅.regs
    r₅.mem hb h₆
  exact ⟨s₆, r₅.next h₆ ha (.inr (.inr (.inr hcompleted.live))), (step_even_regs he₅ h₆).trans r₅.regs, hmem, hcompleted,
    step_even_computes r₅.running he₅ hD h₆ ha⟩

/-- Tick 7: the net effect of the first instruction is made, and the second waits for its Memory turn. -/
theorem afterFirstWriteback (h : s.ReadyToFetch) (hp : s.pc.toNat + 1 < s.n.toNat)
    (hb : ∀ a, netAddress (s.instrAt s.pc.toNat) s = some a → inBounds a = true) :
    ∃ s₇, s.Runs 7 s₇ ∧ s₇.regs = (netEffect (s.instrAt s.pc.toNat) s).regs ∧
      s₇.mem = (netEffect (s.instrAt s.pc.toNat) s).mem ∧
      s₇.E.Computed (Memory.read s.mem (s.pc.toNat + 1)) (s.pc + 1 + 1) s := by
  obtain ⟨s₆, r₆, hregs, hmem, hM, hE⟩ := h.afterSecondExecute hjeq hjmp hp hb
  obtain ⟨s₇, h₇⟩ := r₆.exists_step h.count
  have he₆ := r₆.evenTick h.evenTick rfl
  obtain ⟨ha, hmem₇, -, hE₇, -⟩ := step_odd_keeps r₆.running r₆.notAborted he₆ h₇
  rw [← hE₇] at hE
  exact ⟨s₇, r₆.next h₇ ha (.inr (.inr (.inl hE.live))),
    step_odd_writes_net r₆.running r₆.notAborted he₆ (by rw [r₆.t]; omega) hM hregs hb h₇, hmem₇.trans hmem, hE⟩

/-- Behind an instruction that is no transfer and leaves the registers as they are, the second reads what it would read
one at a time: nine ticks make the two net effects. -/
theorem nine_ticks_are_two_net_effects (h : s.ReadyToFetch) (hp : s.pc.toNat + 1 < s.n.toNat)
    (hb : ∀ a, netAddress (s.instrAt s.pc.toNat) s = some a → inBounds a = true)
    (hkept : (netEffect (s.instrAt s.pc.toNat) s).regs = s.regs)
    (hb' : ∀ a, netAddress (s.instrAt (s.pc.toNat + 1)) s = some a → inBounds a = true) :
    ∃ s₉, runTicks 9 s = .next s₉ ∧
      s₉.regs = (netEffect (s.instrAt (s.pc.toNat + 1)) (netEffect (s.instrAt s.pc.toNat) s)).regs ∧
      s₉.mem = (netEffect (s.instrAt (s.pc.toNat + 1)) (netEffect (s.instrAt s.pc.toNat) s)).mem := by
  obtain ⟨s₇, r₇, hregs, hmem, hE⟩ := h.afterFirstWriteback hjeq hjmp hp hb
  rw [← netAddress_congr hkept] at hb'
  obtain ⟨s₈, h₈⟩ := r₇.exists_step h.count
  have he₇ := r₇.oddTick h.evenTick rfl
  obtain ⟨ha, hmem₈, hM⟩ := step_even_completes r₇.running he₇ r₇.notAborted (by rw [r₇.t]; omega) (hE.congr hkept) hregs
    hmem hb' h₈
  have r₈ := r₇.next h₈ ha (.inr (.inr (.inr hM.live)))
  obtain ⟨s₉, h₉⟩ := r₈.exists_step h.count
  have he₈ := r₈.evenTick h.evenTick rfl
  obtain ⟨-, hmem₉, -⟩ := step_odd_keeps r₈.running r₈.notAborted he₈ h₉
  exact ⟨s₉, runTicks_snoc r₈.run h₉,
    step_odd_writes_net r₈.running r₈.notAborted he₈ (by rw [r₈.t]; omega) hM ((step_even_regs he₇ h₈).trans hregs) hb' h₉,
    hmem₉.trans hmem₈⟩

end NoTransfer

end State.ReadyToFetch

/-- Settles O58: the two net effects, with the word stored read back (R174). -/
theorem storeThenLoadReturnsTheSource : Obligations.StoreThenLoadReturnsTheSource := by
  intro s src dst base imm h hwf hp hmovm hmovr hin
  obtain ⟨s', hrun, hregs, hmem⟩ := h.nine_ticks_are_two_net_effects (by rw [hmovm]; simp [Instr.opcode])
    (by rw [hmovm]; simp [Instr.opcode]) hp
    (by rw [hmovm]; rintro a ⟨⟩; exact hin) (by rw [hmovm]; rfl) (by rw [hmovr]; rintro a ⟨⟩; exact hin)
  rw [hmovm, hmovr] at hregs hmem
  have hloaded : Memory.read (Memory.write s.mem (s.readReg base + imm).toNat (s.readReg src))
      (s.readReg base + imm).toNat = s.readReg src := by
    rw [Memory.read_write hwf, if_pos rfl]
  have hregs : s'.regs = (s.writeReg dst (s.readReg src)).regs := by rw [← hloaded, hregs]; rfl
  refine ⟨s', hrun, fun hdst => ?_, fun r hr => ?_, hmem⟩
  · rw [State.readReg_congr hregs, State.readReg_writeReg, if_neg hdst, if_pos rfl]
  · obtain ⟨-, -, -, hother⟩ := registerWriteIsThePair s dst (s.readReg src)
    rw [State.readReg_congr hregs, hother r hr]

end Sys2Proof.Machine

/-! ### The family of file 43: control transfer

The turns of JEQ and JMP; and a transfer on its way through the pipeline, with what stands behind it and at its target. -/

namespace Sys2Proof.Machine

/-! ### The Execute turn of JEQ and JMP, by its outcomes (R182, R186) -/

theorem exec_jeq_execute {s : State} (h : s.turn = .execute) (ra rb : RegIdx) (imm : Word) :
    exec (.jeq ra rb imm) s = .next (s.jeqTurn ra rb imm) := by
  simp only [exec, execJeq, h]

theorem exec_jmp_execute {s : State} (h : s.turn = .execute) (addr : Addr) :
    exec (.jmp addr) s = .next (s.jmpTurn addr) := by
  simp only [exec, execJmp, h]

theorem State.jeqTurn_of_ne {s : State} {ra rb : RegIdx} (h : s.readReg ra ≠ s.readReg rb) (imm : Word) :
    s.jeqTurn ra rb imm = s := if_neg h

theorem State.jeqTurn_of_offset_one {s : State} {ra rb : RegIdx} {imm : Word} (h : s.readReg ra = s.readReg rb)
    (himm : imm.toInt = 1) : s.jeqTurn ra rb imm = s.markD := by
  rw [State.jeqTurn, if_pos h, if_pos himm]

theorem State.jeqTurn_of_offset_gt_one {s : State} {ra rb : RegIdx} {imm : Word} (h : s.readReg ra = s.readReg rb)
    (himm : 1 < imm.toInt) : s.jeqTurn ra rb imm = s.markF.markD.redirect (s.E.pc + imm) := by
  rw [State.jeqTurn, if_pos h, if_neg (by omega), if_pos himm]

theorem State.jeqTurn_of_offset_nonpos {s : State} {ra rb : RegIdx} {imm : Word} (h : s.readReg ra = s.readReg rb)
    (himm : imm.toInt ≤ 0) : s.jeqTurn ra rb imm = s := by
  rw [State.jeqTurn, if_pos h, if_neg (by omega), if_neg (by omega)]

theorem State.jmpTurn_of_next {s : State} {addr : Addr} (h : s.jumpTarget addr = s.E.pc + 1) :
    s.jmpTurn addr = s.markD := if_pos h

theorem State.jmpTurn_of_ownPc {s : State} {addr : Addr} (h : s.jumpTarget addr = s.E.pc) : s.jmpTurn addr = s := by
  have hnext : s.jumpTarget addr ≠ s.E.pc + 1 := by rw [h]; bv_omega
  rw [State.jmpTurn, if_neg hnext, if_neg (not_not_intro h)]

theorem State.jmpTurn_of_elsewhere {s : State} {addr : Addr} (hnext : s.jumpTarget addr ≠ s.E.pc + 1)
    (hown : s.jumpTarget addr ≠ s.E.pc) : s.jmpTurn addr = s.markF.markD.redirect (s.jumpTarget addr) := by
  rw [State.jmpTurn, if_neg hnext, if_pos hown]

/-- The jump target as a number: pc rounded down to a multiple of 2^28, plus the address (R186). -/
theorem State.jumpTarget_eq_ofNat (s : State) (addr : Addr) :
    s.jumpTarget addr = BitVec.ofNat 32 (s.pc.toNat / 2 ^ 28 * 2 ^ 28 + addr.toNat) := by
  have hpc := s.pc.isLt
  have haddr := addr.isLt
  apply BitVec.eq_of_toNat_eq
  rw [State.jumpTarget, BitVec.toNat_append, BitVec.extractLsb'_toNat, Nat.shiftRight_eq_div_pow,
    ← Nat.shiftLeft_add_eq_or_of_lt haddr, Nat.shiftLeft_eq, BitVec.toNat_ofNat]
  omega

/-- Below 2^28 the jump target is the address of the instruction (R187). -/
theorem State.jumpTarget_eq_setWidth {s : State} (h : s.pc.toNat < 2 ^ 28) (addr : Addr) :
    s.jumpTarget addr = addr.setWidth 32 := by
  rw [State.jumpTarget_eq_ofNat, Nat.div_eq_of_lt h, Nat.zero_mul, Nat.zero_add, BitVec.ofNat_toNat]

/-- Settles O18. -/
theorem jeqTurns : Obligations.JeqTurns := by
  intro s ra rb imm
  obtain ⟨-, -, hmemory⟩ := noAccess_of_netAddress_eq_none (i := .jeq ra rb imm) (s₀ := s) rfl
  refine ⟨fun h => exec_decode_eq _ h, fun h hne => ?unequal, fun h heq himm => ?offsetOne, fun h heq himm => ?redirect,
    fun h heq himm => ?backward, fun h => ?memory, fun h => exec_writeback_eq _ h⟩
  case unequal => rw [exec_jeq_execute h, State.jeqTurn_of_ne hne]
  case offsetOne => rw [exec_jeq_execute h, State.jeqTurn_of_offset_one heq himm]; rfl
  case redirect => rw [exec_jeq_execute h, State.jeqTurn_of_offset_gt_one heq himm]; rfl
  case backward => rw [exec_jeq_execute h, State.jeqTurn_of_offset_nonpos heq himm]
  case memory => exact hmemory s h

/-- Settles O19: the model's target, four bits of pc before the address, is the one computed as a number. -/
theorem jmpTurns : Obligations.JmpTurns := by
  intro s addr target
  have htarget : s.jumpTarget addr = target := s.jumpTarget_eq_ofNat addr
  rw [← htarget]
  obtain ⟨-, -, hmemory⟩ := noAccess_of_netAddress_eq_none (i := .jmp addr) (s₀ := s) rfl
  refine ⟨fun h => exec_decode_eq _ h, fun h hnext => ?next, fun h hown => ?ownPc, fun h hnext hown => ?elsewhere,
    fun h => ?memory, fun h => exec_writeback_eq _ h⟩
  case next => rw [exec_jmp_execute h, State.jmpTurn_of_next hnext]; rfl
  case ownPc => rw [exec_jmp_execute h, State.jmpTurn_of_ownPc hown]
  case elsewhere => rw [exec_jmp_execute h, State.jmpTurn_of_elsewhere hnext hown]; rfl
  case memory => exact hmemory s h

end Sys2Proof.Machine

/-! ### A transfer of control in the pipeline -/

namespace Sys2Proof.Machine

/-! ### The one-at-a-time reading of a transfer -/

/-- Opcodes 4 and 7 decode to JEQ and JMP (R120). -/
theorem decode_of_transfer_opcode {w : Word} (h : (decode w).opcode = 4#4 ∨ (decode w).opcode = 7#4) :
    (∃ ra rb imm, decode w = .jeq ra rb imm) ∨ ∃ addr, decode w = .jmp addr := by
  have hop : (decode w).opcode = (decodeFields w).op := Fields.instr_opcode _
  rw [hop] at h
  rcases h with h | h
  · exact .inl ⟨_, _, _, by rw [decode, Fields.instr, h]; rfl⟩
  · exact .inr ⟨_, by rw [decode, Fields.instr, h]; rfl⟩

/-- A taken transfer has no net effect on registers and memory, and makes no access. -/
theorem netEffect_of_netTaken {i : Instr} {s : State} {a : Word} (h : netTaken i s a = true) :
    netEffect i s = s ∧ ∀ b, netAddress i s = some b → inBounds b = true := by
  cases i with
  | jeq | jmp => exact ⟨rfl, nofun⟩
  | _ => cases h

/-- The Execute turn of a taken transfer fetched at `a`: it marks D, and also marks F and redirects pc unless its target is
the address that pc holds anyway (R182, R186). -/
theorem exec_execute_of_taken {i : Instr} {s s₀ : State} {a : Word} (ht : s.turn = .execute) (hregs : s.regs = s₀.regs)
    (hown : s.E.pc = a + 1) (hhigh : s.pc.toNat < 2 ^ 28) (h : netTaken i s₀ a = true) :
    exec i s = .next s.markD ∧ netNext i s₀ a = a + 1 + 1 ∨
      exec i s = .next (s.markF.markD.redirect (netNext i s₀ a)) := by
  cases i with
  | jeq ra rb imm =>
    simp only [netTaken, Bool.and_eq_true, decide_eq_true_eq] at h
    obtain ⟨heq, himm⟩ := h
    have hnext : netNext (.jeq ra rb imm) s₀ a = a + 1 + imm := if_pos ⟨heq, himm⟩
    rw [← State.readReg_congr hregs, ← State.readReg_congr hregs] at heq
    rw [exec_jeq_execute ht, hnext]
    rcases himm.eq_or_lt with himm | himm
    · obtain rfl : imm = 1 := BitVec.eq_of_toInt_eq himm.symm
      exact .inl ⟨by rw [State.jeqTurn_of_offset_one heq rfl], rfl⟩
    · exact .inr (by rw [State.jeqTurn_of_offset_gt_one heq himm, hown])
  | jmp addr =>
    simp only [netTaken, decide_eq_true_eq] at h
    have htarget := State.jumpTarget_eq_setWidth hhigh addr
    rw [exec_jmp_execute ht, netNext, ← htarget]
    rw [← htarget, ← hown] at h
    by_cases hnext : s.jumpTarget addr = s.E.pc + 1
    · exact .inl ⟨by rw [State.jmpTurn_of_next hnext], by rw [hnext, hown]⟩
    · exact .inr (by rw [State.jmpTurn_of_elsewhere hnext h])
  | _ => cases h

/-- The Execute turn of a JEQ or JMP fetched at `a` and not taken does nothing. -/
theorem exec_execute_of_untaken {w : Word} {s s₀ : State} {a : Word} (ht : s.turn = .execute) (hregs : s.regs = s₀.regs)
    (hown : s.E.pc = a + 1) (hhigh : s.pc.toNat < 2 ^ 28)
    (hop : (decode w).opcode = 4#4 ∨ (decode w).opcode = 7#4) (h : netTaken (decode w) s₀ a = false) :
    exec (decode w) s = .next s ∧ netNext (decode w) s₀ a = a + 1 := by
  rcases decode_of_transfer_opcode hop with ⟨ra, rb, imm, hi⟩ | ⟨addr, hi⟩ <;> rw [hi] at h ⊢
  · have hnot : ¬ (s₀.readReg ra = s₀.readReg rb ∧ 1 ≤ imm.toInt) := by simpa [netTaken] using h
    refine ⟨?_, if_neg hnot⟩
    rw [← State.readReg_congr hregs, ← State.readReg_congr hregs] at hnot
    rw [exec_jeq_execute ht]
    by_cases heq : s.readReg ra = s.readReg rb
    · rw [State.jeqTurn_of_offset_nonpos heq (by have := not_and.mp hnot heq; omega)]
    · rw [State.jeqTurn_of_ne heq]
  · have hnext : addr.setWidth 32 = a + 1 := by simpa [netTaken] using h
    refine ⟨?_, hnext⟩
    rw [← hown, ← State.jumpTarget_eq_setWidth hhigh] at hnext
    rw [exec_jmp_execute ht, State.jmpTurn_of_ownPc hnext]

/-! ### The Execute and Decode turns of an even tick -/

theorem State.decodePhase_of_dead {s : State} (h : s.D.live = false) : s.decodePhase = .next s :=
  if_neg (by simp [State.decodeActs, h])

/-- Decode leaves F, and the word, the own pc and the marks of the context in D. -/
theorem State.decodePhase_slots {s s' : State} (h : s.decodePhase = .next s') :
    s'.F = s.F ∧ s'.D.valid = s.D.valid ∧ s'.D.flush = s.D.flush ∧ s'.D.word = s.D.word ∧ s'.D.pc = s.D.pc := by
  rcases State.decodePhase_inv h with ⟨-, rfl⟩ | ⟨-, rfl⟩ <;> exact ⟨rfl, rfl, rfl, rfl, rfl⟩

/-- An even tick that does not abort, with a live context arriving in E: its instruction runs in its Execute turn, then comes
Decode. -/
theorem step_even_executes {s s' : State} (hr : s.running = true) (he : s.evenTick = false) (hD : s.D.live = true)
    (h : step s = .next s') (ha : s'.abort = false) :
    ∃ s₁ s₂ s₃, s₁.turn = .execute ∧ s₁.regs = s.regs ∧ s₁.pc = s.pc ∧ s₁.E = s.D ∧ s₁.D = s.F ∧
      exec s.D.dec.instr s₁ = .next s₂ ∧ (s₂.setTurn .rest).decodePhase = .next s₃ ∧ s' = s₃.haltTest := by
  obtain ⟨s₁, s₂, s₃, hm, hx, he₁, hd, -, rfl⟩ := step_even_inv hr he h ha
  obtain ⟨hregs, hpc, hE₁, hD₁, -⟩ := State.memoryPhase_frame hm
  obtain ⟨hE₀, hD₀⟩ := State.beginTick_even_slots he
  rw [hE₀] at hE₁
  have hact : s₁.executeActs = true := s₁.executeActs_iff.mpr ⟨s₁.evenTick_iff.mp he₁, by rw [hE₁, hD]⟩
  rw [State.executePhase, if_pos hact, hE₁] at hx
  obtain ⟨s₂', hexec, hs₂⟩ := andThen_eq_next hx
  cases hs₂
  exact ⟨s₁.setTurn .execute, s₂', s₃, rfl, hregs.trans s.beginTick_regs, hpc.trans s.beginTick_pc, hE₁, hD₁.trans hD₀, hexec,
    hd, rfl⟩

/-- Without a live context arriving in E an even tick leaves F and the context in E as they are, and marks nothing (R228). -/
theorem step_even_slots_of_dead {s s' : State} (hr : s.running = true) (he : s.evenTick = false) (hD : s.D.live = false)
    (h : step s = .next s') (ha : s'.abort = false) :
    s'.F = s.F ∧ s'.D.valid = s.F.valid ∧ s'.D.flush = s.F.flush ∧ s'.E = s.D := by
  obtain ⟨s₁, s₂, s₃, hm, hx, -, hd, -, rfl⟩ := step_even_inv hr he h ha
  obtain ⟨-, -, hE₁, hD₁, hF₁⟩ := State.memoryPhase_frame hm
  obtain ⟨hE₀, hD₀⟩ := State.beginTick_even_slots he
  obtain rfl := eq_of_next hx (State.executePhase_of_dead (by rwa [hE₁, hE₀]))
  obtain ⟨hF, hvalid, hflush, -⟩ := State.decodePhase_slots hd
  obtain ⟨-, hE, -⟩ := State.decodePhase_keeps hd
  rw [State.haltTest_F, State.haltTest_D, State.haltTest_E, hF, hvalid, hflush, hE, hF₁, hD₁, hE₁, hD₀, hE₀, State.beginTick_F]
  exact ⟨rfl, rfl, rfl, rfl⟩

/-! ### What the next fetch reads -/

/-- The context of the fetch at address `a`: live exactly when `a` is part of the program, and then with its word (R222,
R223). -/
structure Context.FetchedAt (c : Context) (s : State) (a : Word) : Prop where
  live_iff : c.live = true ↔ a.toNat < s.n.toNat
  carries : c.live = true → c.Carries (Memory.read s.mem a.toNat) (a + 1)

/-- The next fetch is the one at address `a`: pc is `a`, or both lie behind the program. -/
def State.FetchesNext (s : State) (a : Word) : Prop :=
  s.pc = a ∨ s.n.toNat ≤ s.pc.toNat ∧ s.n.toNat ≤ a.toNat

theorem Context.FetchedAt.congr {c : Context} {s s' : State} {a : Word} (h : c.FetchedAt s a) (hn : s'.n = s.n)
    (hmem : s'.mem = s.mem) : c.FetchedAt s' a :=
  ⟨by rw [hn]; exact h.live_iff, by rw [hmem]; exact h.carries⟩

/-- The fetch of an odd tick (R222, R223). -/
theorem State.FetchesNext.step_odd {s s' : State} {a : Word} (ha : s.FetchesNext a) (hr : s.running = true)
    (habort : s.abort = false) (he : s.evenTick = true) (hn : s.n.toNat ≤ Config.maxCount) (h : step s = .next s') :
    s'.F.FetchedAt s a := by
  by_cases hp : s.pc.toNat < s.n.toNat
  · obtain rfl : s.pc = a := ha.resolve_right fun hend => absurd hp (by omega)
    rw [step_odd_fetches hr habort he hn hp h]
    exact ⟨iff_of_true rfl hp, fun _ => ⟨rfl, rfl, rfl⟩⟩
  · have hdead : s'.F.live = false := by
      have hvalid := mt (step_odd_F_valid hr habort he h).mp hp
      simp [Context.live, hvalid]
    have hend : ¬ a.toNat < s.n.toNat := by
      rcases ha with rfl | ⟨-, ha⟩
      · exact hp
      · omega
    exact ⟨iff_of_false (by simp [hdead]) hend, fun hlive => by rw [hdead] at hlive; cases hlive⟩

/-- An odd tick without a fetch leaves pc alone. -/
theorem step_odd_pc_of_end {s s' : State} (he : s.evenTick = true) (hp : ¬ s.pc.toNat < s.n.toNat)
    (h : step s = .next s') : s'.pc = s.pc := by
  have heven := s.evenTick_iff.mp he
  rcases pcChangesOnlyByFetchOrRedirect s s' h with hpc | ⟨-, -, hp', -⟩ | ⟨hr, ht, -⟩ | ⟨hr, ht, -⟩
  · exact hpc
  · exact absurd hp' hp
  · rw [step_t hr h] at ht
    omega
  · rw [step_t hr h] at ht
    omega

/-- An odd tick with pc at most N leaves it at most N, and the next fetch is the one at the address behind. -/
theorem step_odd_fetchesNext_succ {s s' : State} (hr : s.running = true) (ha : s.abort = false) (he : s.evenTick = true)
    (hle : s.pc.toNat ≤ s.n.toNat) (h : step s = .next s') :
    s'.FetchesNext (s.pc + 1) ∧ s'.pc.toNat ≤ s.n.toNat := by
  have hn : s'.n = s.n := (step_slotsKept hr h).n.trans s.beginTick_n
  by_cases hp : s.pc.toNat < s.n.toNat
  · have hpc := step_odd_pc hr ha he hp h
    exact ⟨.inl hpc, by rw [hpc, toNat_add_one_of_lt hp]; exact hp⟩
  · have hpc := step_odd_pc_of_end he hp h
    have hend : s.n.toNat ≤ s.pc.toNat ∧ s.n.toNat ≤ (s.pc + 1).toNat := by
      have := s.n.isLt
      constructor <;> bv_omega
    rw [State.FetchesNext, hpc, hn]
    exact ⟨.inr hend, hle⟩

/-! ### A transfer at its Execute turn -/

section Transfer

variable {s s' s₀ : State} {w a : Word} (hr : s.running = true) (he : s.evenTick = false)
  (hD : s.D.Latched w (a + 1) s₀) (hregs : s.regs = s₀.regs) (hhigh : s.pc.toNat < 2 ^ 28)

include hr he hD hregs hhigh

/-- A taken transfer marks what arrives in D before its Decode turn, and the next fetch is the one at its target. -/
theorem step_even_taken (htaken : netTaken (decode w) s₀ a = true) (hpc : s.FetchesNext (a + 1 + 1))
    (h : step s = .next s') (ha : s'.abort = false) :
    s'.D = { s.F with flush := true } ∧ s'.FetchesNext (netNext (decode w) s₀ a) := by
  have hn : s'.n = s.n := (step_slotsKept hr h).n.trans s.beginTick_n
  obtain ⟨s₁, s₂, s₃, hturn, hregs₁, hpc₁, hE₁, hD₁, hexec, hd, rfl⟩ := step_even_executes hr he hD.live h ha
  have hdec : s.D.dec.instr = decode w := congrArg Fields.instr hD.dec
  rw [hdec] at hexec
  have hmarked : s₂.D = { s₁.D with flush := true } ∧ (s₂.pc = s.pc ∧ netNext (decode w) s₀ a = a + 1 + 1 ∨
      s₂.pc = netNext (decode w) s₀ a) := by
    rcases exec_execute_of_taken hturn (hregs₁.trans hregs) (by rw [hE₁, hD.pc]) (by rwa [hpc₁]) htaken with
      ⟨hexec', hnext⟩ | hexec' <;> obtain rfl := eq_of_next hexec hexec'
    · exact ⟨rfl, .inl ⟨hpc₁, hnext⟩⟩
    · exact ⟨rfl, .inr rfl⟩
  obtain ⟨hD₂, hpc₂⟩ := hmarked
  obtain rfl := eq_of_next hd (State.decodePhase_of_dead (by rw [State.setTurn_D, hD₂, Context.live_flushed]))
  refine ⟨by rw [State.haltTest_D, State.setTurn_D, hD₂, hD₁], ?_⟩
  rcases hpc₂ with ⟨hpc₂, hnext⟩ | hpc₂
  · rw [State.FetchesNext, hn, State.haltTest_pc, State.setTurn_pc, hpc₂, hnext]
    exact hpc
  · exact .inl (by rw [State.haltTest_pc, State.setTurn_pc, hpc₂])

/-- A JEQ or JMP that is not taken leaves pc and the marks alone. -/
theorem step_even_untaken (hop : (decode w).opcode = 4#4 ∨ (decode w).opcode = 7#4)
    (huntaken : netTaken (decode w) s₀ a = false) (h : step s = .next s') (ha : s'.abort = false) :
    s'.pc = s.pc ∧ s'.D.live = s.F.live ∧ s'.D.word = s.F.word ∧ s'.D.pc = s.F.pc ∧
      netNext (decode w) s₀ a = a + 1 := by
  obtain ⟨s₁, s₂, s₃, hturn, hregs₁, hpc₁, hE₁, hD₁, hexec, hd, rfl⟩ := step_even_executes hr he hD.live h ha
  have hdec : s.D.dec.instr = decode w := congrArg Fields.instr hD.dec
  rw [hdec] at hexec
  obtain ⟨hexec', hnext⟩ := exec_execute_of_untaken hturn (hregs₁.trans hregs) (by rw [hE₁, hD.pc]) (by rwa [hpc₁]) hop
    huntaken
  obtain rfl := eq_of_next hexec hexec'
  obtain ⟨-, hvalid, hflush, hword, hpc⟩ := State.decodePhase_slots hd
  obtain ⟨-, hpc₃, -⟩ := State.decodePhase_frame hd
  rw [State.setTurn_D, hD₁] at hvalid hflush hword hpc
  rw [State.haltTest_pc, State.haltTest_D, hpc₃, Context.live, hvalid, hflush, hword, hpc]
  exact ⟨hpc₁, rfl, rfl, rfl, hnext⟩

end Transfer

/-! ### From the fetch of a transfer to its target (R183, R188) -/

namespace State.ReadyToFetch

variable {s : State}

/-- Tick 3: the first instruction stands in D, the fetch at the address behind it in F. -/
theorem afterFetchBehind (h : s.ReadyToFetch) :
    ∃ s₃, s.RunsUnwritten 3 s₃ ∧ s₃.D.Latched (Memory.read s.mem s.pc.toNat) (s.pc + 1) s ∧
      s₃.F.FetchedAt s (s.pc + 1) ∧ s₃.E.live = false ∧ s₃.FetchesNext (s.pc + 1 + 1) ∧ s₃.pc.toNat < 2 ^ 28 := by
  obtain ⟨s₂, r₂, hD, hE, hM⟩ := h.afterDecode
  have hpc₂ := h.pc_after_two_ticks r₂.run
  have he₂ := r₂.evenTick h.evenTick rfl
  have hle : s₂.pc.toNat ≤ s₂.n.toNat := by rw [hpc₂, r₂.n, toNat_add_one_of_lt h.inProgram]; exact h.inProgram
  obtain ⟨s₃, h₃⟩ := r₂.exists_step h.count
  obtain ⟨-, -, hD₃, hE₃, -⟩ := step_odd_keeps r₂.running r₂.notAborted he₂ h₃
  have hF := (State.FetchesNext.step_odd (.inl hpc₂) r₂.running r₂.notAborted he₂ (by rw [r₂.n]; exact h.count) h₃).congr
    r₂.n.symm r₂.mem.symm
  obtain ⟨hnext, hpc₃⟩ := step_odd_fetchesNext_succ r₂.running r₂.notAborted he₂ hle h₃
  have hhigh : s₃.pc.toNat < 2 ^ 28 := by
    have hcount : s.n.toNat ≤ 2048 := h.count
    rw [r₂.n] at hpc₃
    omega
  rw [hpc₂] at hnext
  rw [← hD₃] at hD
  exact ⟨s₃, r₂.odd he₂ hM h₃ (.inr (.inl hD.live)), hD, hF, by rw [hE₃, hE], hnext, hhigh⟩

/-- Tick 4: the first instruction has had its Execute turn. -/
theorem executeFirst {s₃ : State} (h : s.ReadyToFetch) (r₃ : s.RunsUnwritten 3 s₃)
    (hD : s₃.D.Latched (Memory.read s.mem s.pc.toNat) (s.pc + 1) s) (hE : s₃.E.live = false) :
    ∃ s₄, step s₃ = .next s₄ ∧ s.RunsUnwritten 4 s₄ ∧ s₄.E.Computed (Memory.read s.mem s.pc.toNat) (s.pc + 1) s ∧
      s₄.M.live = false := by
  obtain ⟨s₄, h₄⟩ := r₃.exists_step h.count
  have he₃ := r₃.oddTick h.evenTick rfl
  obtain ⟨ha, -, hM₄⟩ := step_even_quiet r₃.running he₃ hE h₄
  have hcomputed := step_even_computes r₃.running he₃ hD h₄ (ha.trans r₃.notAborted)
  exact ⟨s₄, h₄, r₃.even he₃ hE h₄ (.inr (.inr (.inl hcomputed.live))), hcomputed, by rw [hM₄, hE]⟩

/-- Tick 4 behind a taken transfer: what was fetched behind it is marked, and the next fetch is the one at its target. -/
theorem afterTaken (h : s.ReadyToFetch) (htaken : netTaken (s.instrAt s.pc.toNat) s s.pc = true) :
    ∃ s₃ s₄, runTicks 3 s = .next s₃ ∧ s.RunsUnwritten 4 s₄ ∧
      s₄.E.Computed (Memory.read s.mem s.pc.toNat) (s.pc + 1) s ∧ s₄.M.live = false ∧
      s₄.D = { s₃.F with flush := true } ∧ s₄.FetchesNext (netNext (s.instrAt s.pc.toNat) s s.pc) := by
  obtain ⟨s₃, r₃, hD, -, hE, hpc, hhigh⟩ := h.afterFetchBehind
  obtain ⟨s₄, h₄, r₄, hcomputed, hM⟩ := h.executeFirst r₃ hD hE
  exact ⟨s₃, s₄, r₃.run, r₄, hcomputed, hM,
    step_even_taken r₃.running (r₃.oddTick h.evenTick rfl) hD r₃.regs hhigh htaken hpc h₄ r₄.notAborted⟩

/-- Tick 4 behind a JEQ or JMP that is not taken: the two addresses behind it follow. -/
theorem afterUntaken (h : s.ReadyToFetch)
    (hop : (s.instrAt s.pc.toNat).opcode = 4#4 ∨ (s.instrAt s.pc.toNat).opcode = 7#4)
    (huntaken : netTaken (s.instrAt s.pc.toNat) s s.pc = false) :
    ∃ s₄, s.RunsUnwritten 4 s₄ ∧ s₄.D.FetchedAt s (s.pc + 1) ∧ s₄.FetchesNext (s.pc + 1 + 1) ∧
      netNext (s.instrAt s.pc.toNat) s s.pc = s.pc + 1 := by
  obtain ⟨s₃, r₃, hD, hF, hE, hpc, hhigh⟩ := h.afterFetchBehind
  obtain ⟨s₄, h₄, r₄, -, -⟩ := h.executeFirst r₃ hD hE
  obtain ⟨hpc₄, hlive, hword, hown, hnext⟩ := step_even_untaken r₃.running (r₃.oddTick h.evenTick rfl) hD r₃.regs hhigh
    hop huntaken h₄ r₄.notAborted
  refine ⟨s₄, r₄, ⟨hlive ▸ hF.live_iff, fun hl => ?_⟩, ?_, hnext⟩
  · obtain ⟨-, hword', hown'⟩ := hF.carries (hlive ▸ hl)
    exact ⟨hl, hword.trans hword', hown.trans hown'⟩
  · rw [State.FetchesNext, hpc₄, r₄.n, ← r₃.n]
    exact hpc

end State.ReadyToFetch

end Sys2Proof.Machine

/-! ### The target and the shadow of a transfer -/

namespace Sys2Proof.Machine

/-- One odd tick on, the fetch at the address the run came to stands in F. -/
theorem State.RunsUnwritten.fetchNext {s₀ s : State} {k : Nat} {a : Word} (hk : s₀.RunsUnwritten k s)
    (he : s.evenTick = true) (hn : s₀.n.toNat ≤ Config.maxCount) (ha : s.FetchesNext a) :
    ∃ s', runTicks (k + 1) s₀ = .next s' ∧ s'.D = s.D ∧ s'.F.FetchedAt s₀ a := by
  obtain ⟨s', h'⟩ := hk.exists_step hn
  obtain ⟨-, -, hD, -⟩ := step_odd_keeps hk.running hk.notAborted he h'
  have hF := ha.step_odd hk.running hk.notAborted he (by rwa [hk.n]) h'
  exact ⟨s', runTicks_snoc hk.run h', hD, hF.congr hk.n.symm hk.mem.symm⟩

/-- Settles O51: tick 4 is the Execute turn of the transfer, tick 5 the fetch at the address it left. -/
theorem transferGoesToItsTarget : Obligations.TransferGoesToItsTarget := by
  intro s i h hi hop
  subst hi
  have hnat₁ := toNat_add_one_of_lt h.inProgram
  have hnat₂ : (s.pc + 1 + 1).toNat = s.pc.toNat + 2 := by
    have := h.inProgram
    have := s.n.isLt
    bv_omega
  cases htaken : netTaken (s.instrAt s.pc.toNat) s s.pc with
  | true =>
    obtain ⟨_, s₄, -, r₄, -, -, hD₄, hnext⟩ := h.afterTaken htaken
    obtain ⟨s₅, hrun, hD, hF⟩ := r₄.fetchNext (r₄.evenTick h.evenTick rfl) h.count hnext
    refine ⟨s₅, hrun, fun _ => ⟨by rw [hD, hD₄, Context.live_flushed], hF.live_iff, fun hlive => ?_⟩, nofun⟩
    exact ⟨(hF.carries hlive).pc, (hF.carries hlive).word⟩
  | false =>
    obtain ⟨s₄, r₄, hD₄, hpc, hnext⟩ := h.afterUntaken hop htaken
    obtain ⟨s₅, hrun, hD, hF⟩ := r₄.fetchNext (r₄.evenTick h.evenTick rfl) h.count hpc
    rw [← hD] at hD₄
    refine ⟨s₅, hrun, nofun, fun _ => ⟨hnext, hnat₁ ▸ hD₄.live_iff, fun hlive => ?behind, hnat₂ ▸ hF.live_iff,
      fun hlive => ?second⟩⟩
    case behind =>
      obtain ⟨-, hword, hown⟩ := hD₄.carries hlive
      exact ⟨by rw [hown]; bv_omega, by rw [hword, hnat₁]⟩
    case second =>
      obtain ⟨-, hword, hown⟩ := hF.carries hlive
      exact ⟨by rw [hown]; bv_omega, by rw [hword, hnat₂]⟩

/-! ### The shadow drains (R228) -/

/-- From an even tick count a step stores nothing and does not abort, whether the run goes on or has ended. -/
theorem step_mem_of_evenTick {s s' : State} (ha : s.abort = false) (he : s.evenTick = true) (h : step s = .next s') :
    s'.mem = s.mem ∧ s'.abort = false := by
  cases hr : s.running with
  | false =>
    cases (step_of_not_running hr).symm.trans h
    exact ⟨rfl, ha⟩
  | true =>
    obtain ⟨ha', hmem, -⟩ := step_odd_keeps hr ha he h
    exact ⟨hmem, ha'⟩

/-- A dead context in E, and already copied to M, passes its Memory and its Write-back turn without an effect, whether the
run goes on or has ended. -/
theorem two_steps_of_dead {s : State} (ha : s.abort = false) (he : s.evenTick = false) (hn : s.n.toNat ≤ Config.maxCount)
    (hE : s.E.live = false) (hM : s.M = s.E) :
    ∃ s₁ s₂, step s = .next s₁ ∧ step s₁ = .next s₂ ∧ s₁.M = s.E ∧ s₂.regs = s.regs ∧ s₂.mem = s.mem ∧
      s₂.abort = false := by
  cases hr : s.running with
  | false => exact ⟨s, s, step_of_not_running hr, step_of_not_running hr, hM, rfl, rfl, ha⟩
  | true =>
    obtain ⟨s₁, h₁⟩ := step_next hn
    have hn₁ : s₁.n = s.n := (step_slotsKept hr h₁).n.trans s.beginTick_n
    have he₁ : s₁.evenTick = true := by
      rw [State.evenTick_succ (step_t hr h₁), he]
      rfl
    obtain ⟨ha₁, hmem₁, hM₁⟩ := step_even_quiet hr he hE h₁
    obtain ⟨s₂, h₂⟩ := step_next (s := s₁) (by rwa [hn₁])
    obtain ⟨hmem₂, ha₂⟩ := step_mem_of_evenTick (ha₁.trans ha) he₁ h₂
    have hregs₂ := step_regs_of_dead (by rw [hM₁, hE]) h₂
    exact ⟨s₁, s₂, h₁, h₂, hM₁, hregs₂.trans (step_even_regs he h₁), hmem₂.trans hmem₁, ha₂⟩

namespace State.ReadyToFetch

variable {s : State} (h : s.ReadyToFetch) (htaken : netTaken (s.instrAt s.pc.toNat) s s.pc = true)

include h htaken

/-- Tick 6: the transfer stands in M; the Execute turn of its dead shadow leaves pc and F, marks nothing and computes
nothing. -/
theorem shadowAtExecute {s₄ : State} (r₄ : s.RunsUnwritten 4 s₄)
    (hE : s₄.E.Computed (Memory.read s.mem s.pc.toNat) (s.pc + 1) s) (hM : s₄.M.live = false) (hD : s₄.D.live = false) :
    ∃ s₅ s₆, runTicks 5 s = .next s₅ ∧ s.RunsUnwritten 6 s₆ ∧
      s₆.M.Completed (Memory.read s.mem s.pc.toNat) (s.pc + 1) s ∧
      s₆.pc = s₅.pc ∧ s₆.F = s₅.F ∧ s₆.D.valid = s₅.F.valid ∧ s₆.D.flush = s₅.F.flush ∧ s₆.E = s₄.D := by
  obtain ⟨hnet, hb⟩ := netEffect_of_netTaken htaken
  obtain ⟨s₅, h₅⟩ := r₄.exists_step h.count
  have he₄ := r₄.evenTick h.evenTick rfl
  obtain ⟨-, -, hD₅, hE₅, -⟩ := step_odd_keeps r₄.running r₄.notAborted he₄ h₅
  rw [← hE₅] at hE
  have hdead : s₅.D.live = false := by rw [hD₅, hD]
  have r₅ := r₄.odd he₄ hM h₅ (.inr (.inr (.inl hE.live)))
  obtain ⟨s₆, h₆⟩ := r₅.exists_step h.count
  have he₅ := r₅.oddTick h.evenTick rfl
  obtain ⟨ha, hmem, hM₆⟩ := step_even_completes r₅.running he₅ r₅.notAborted (by rw [r₅.t]; omega) hE r₅.regs r₅.mem hb h₆
  obtain ⟨hF₆, hvalid, hflush, hE₆⟩ := step_even_slots_of_dead r₅.running he₅ hdead h₆ ha
  have r₆ : s.RunsUnwritten 6 s₆ :=
    ⟨r₅.next h₆ ha (.inr (.inr (.inr hM₆.live))), (step_even_regs he₅ h₆).trans r₅.regs,
      hmem.trans (congrArg State.mem hnet)⟩
  exact ⟨s₅, s₆, r₅.run, r₆, hM₆, step_even_pc_of_dead he₅ hdead h₆, hF₆, hvalid, hflush, hE₆.trans hD₅⟩

/-- Ticks 7 to 9: neither the transfer nor its dead shadow writes a register or memory. -/
theorem shadowDrains {s₆ : State} (r₆ : s.RunsUnwritten 6 s₆)
    (hM : s₆.M.Completed (Memory.read s.mem s.pc.toNat) (s.pc + 1) s) (hE : s₆.E.live = false) :
    ∃ s₈ s₉, runTicks 8 s = .next s₈ ∧ runTicks 9 s = .next s₉ ∧ s₈.M = s₆.E ∧ s₉.regs = s.regs ∧ s₉.mem = s.mem ∧
      s₉.abort = false := by
  obtain ⟨hnet, hb⟩ := netEffect_of_netTaken htaken
  obtain ⟨s₇, h₇⟩ := r₆.exists_step h.count
  have he₆ := r₆.evenTick h.evenTick rfl
  obtain ⟨ha, hmem, -, hE₇, hM₇⟩ := step_odd_keeps r₆.running r₆.notAborted he₆ h₇
  have hregs : s₇.regs = s.regs :=
    (step_odd_writes_net r₆.running r₆.notAborted he₆ (by rw [r₆.t]; omega) hM r₆.regs hb h₇).trans
      (congrArg State.regs hnet)
  have he₇ : s₇.evenTick = false := by
    rw [State.evenTick_succ (step_t r₆.running h₇), he₆]
    rfl
  have hn : s₇.n = s.n := ((step_slotsKept r₆.running h₇).n.trans s₆.beginTick_n).trans r₆.n
  obtain ⟨s₈, s₉, h₈, h₉, hM₈, hregs₉, hmem₉, ha₉⟩ := two_steps_of_dead ha he₇ (by rw [hn]; exact h.count)
    (by rw [hE₇, hE]) (hM₇.trans hE₇.symm)
  have run₈ := runTicks_snoc (runTicks_snoc r₆.run h₇) h₈
  exact ⟨s₈, s₉, run₈, runTicks_snoc run₈ h₉, hM₈.trans hE₇, hregs₉.trans hregs, hmem₉.trans (hmem.trans r₆.mem), ha₉⟩

end State.ReadyToFetch

/-- Settles O52: the mark of tick 4 goes with the shadow's context through its Execute, Memory and Write-back turns. -/
theorem branchShadowHasNoEffect : Obligations.BranchShadowHasNoEffect := by
  intro s h htaken
  obtain ⟨s₃, s₄, run₃, r₄, hE₄, hM₄, hD₄, -⟩ := h.afterTaken htaken
  have hshadow : s₄.D.live = false := by rw [hD₄, Context.live_flushed]
  obtain ⟨s₅, s₆, run₅, r₆, hM₆, hpc, hF, hvalid, hflush, hE₆⟩ := h.shadowAtExecute htaken r₄ hE₄ hM₄ hshadow
  obtain ⟨s₈, s₉, run₈, run₉, hM₈, hregs, hmem, ha⟩ := h.shadowDrains htaken r₆ hM₆ (by rw [hE₆, hshadow])
  exact ⟨s₃, s₄, s₅, s₆, s₈, s₉, run₃, r₄.run, run₅, r₆.run, run₈, run₉, hD₄, hpc, hF, hvalid, hflush, hE₆,
    hM₈.trans hE₆, hregs, hmem, ha⟩

end Sys2Proof.Machine

/-! ### The family of file 44: opcodes 12 to 15

The turns of UNDEF. -/

namespace Sys2Proof.Machine

/-- The address computation of Execute, the same for all four opcodes (R200). -/
theorem exec_undef_execute {s : State} (h : s.turn = .execute) (op : Opcode) (rest : Addr) :
    exec (.undef op rest) s = .next (s.setEa (undefImm rest)) := by
  simp only [exec, execUndef, h]

/-- Settles O20: UNDEF accesses no memory, so its address is never checked (D16), and it is not in the write-back set. -/
theorem undefTurns : Obligations.UndefTurns := by
  intro s op rest
  obtain ⟨-, -, hmemory⟩ := noAccess_of_netAddress_eq_none (i := .undef op rest) (s₀ := s) rfl
  refine ⟨fun h => ?decode, fun h => ?execute, fun h => ?memory, fun h => ?writeback⟩
  case decode => exact exec_decode_eq _ h
  case execute => exact exec_undef_execute h op rest
  case memory => exact hmemory s h
  case writeback => exact exec_writeback_eq _ h

end Sys2Proof.Machine

/-! ### The family of file 45: the pipeline engine

The start and the end of a run; a step as the turns of the instructions in the slots; the copies and the halt test; and the
timetable of one instruction, up to the halt behind the last. -/

namespace Sys2Proof.Machine

/-- Settles O10. -/
theorem noTurnNoEffect : Obligations.NoTurnNoEffect := fun i _ => exec_rest i

/-! ### The start and the end of a run -/

theorem clockEdge_start {s : State} (hr : s.running = false) :
    clockEdge { Inputs.none with start := true } s = .next s.hostStart :=
  clockEdge_of_not_running rfl hr

theorem State.Inv.not_running_of_ended {s : State} (hi : s.Inv) (he : s.halted = true ∨ s.abort = true) :
    s.running = false := by
  by_contra hr
  obtain ⟨hhalt, habort⟩ := hi.runningClear (by simpa using hr)
  simp [hhalt, habort] at he

/-- An idle machine with a program is, once running, ready to fetch: it stands at tick 0 with pc = 0 and five bubbles (R232). -/
theorem State.Inv.readyToFetch_of_idle {s : State} (hi : s.Inv) (hr : s.running = false) (hh : s.halted = false)
    (ha : s.abort = false) (hn : s.n ≠ 0) : State.ReadyToFetch { s with running := true } := by
  obtain ⟨ht, hpc, -, hD, hE, hM, -⟩ := hi.idle hr hh ha
  have hpos : 0 < s.n.toNat := Nat.pos_of_ne_zero fun h0 => hn (BitVec.eq_of_toNat_eq h0)
  exact {
    running := rfl
    notAborted := ha
    evenTick := by simp [State.evenTick, ht]
    turn := hi.turn
    slotD := by simp [hD]
    slotE := by simp [hE]
    slotM := by simp [hM]
    count := hi.count
    inProgram := by simpa [hpc] using hpos }

/-- Settles O27: with N above 0 the halt test of the start does not end the run. -/
theorem startedMachineIsReadyToFetch : Obligations.StartedMachineIsReadyToFetch := by
  intro s hi hr hh ha hn
  obtain ⟨ht, hpc, -⟩ := hi.idle hr hh ha
  refine ⟨{ s with running := true }, ?_, hi.readyToFetch_of_idle hr hh ha hn, hpc, ht, rfl, rfl⟩
  rw [clockEdge_start hr, hi.hostStart_idle hr hh ha, if_neg hn]

/-- Settles O29: a machine that ended is not running, and start is ignored (R231). -/
theorem endedRunStaysEnded : Obligations.EndedRunStaysEnded := by
  intro s k hi he
  have hr := hi.not_running_of_ended he
  exact ⟨runTicks_of_not_running hr k, by rw [clockEdge_start hr, State.hostStart_of_ended he]⟩

end Sys2Proof.Machine

/-! ### A step as the turns of the instructions in the slots -/

namespace Sys2Proof.Machine

open Host (Outcome)

theorem andThen_assoc (o : Outcome State Fault Refusal) (f g : State → Outcome State Fault Refusal) :
    andThen (andThen o f) g = andThen o fun s => andThen (f s) g := by
  cases o <;> rfl

/-! ### The gates, seen from the state before the tick -/

theorem State.beginTick_writebackActs_iff {s : State} (he : s.evenTick = true) :
    s.beginTick.writebackActs = true ↔ 6 ≤ s.t ∧ s.M.live = true := by
  have := s.evenTick_iff.mp he
  rw [State.writebackActs_iff, State.beginTick_t, State.beginTick_W, ← and_assoc]
  exact and_congr_left' (by omega)

theorem State.beginTick_memoryActs_iff {s : State} (he : s.evenTick = false) :
    s.beginTick.memoryActs = true ↔ 5 ≤ s.t ∧ s.E.live = true := by
  have := s.evenTick_eq_false_iff.mp he
  rw [State.memoryActs_iff, State.beginTick_t, State.beginTick_M, ← and_assoc]
  exact and_congr_left' (by omega)

/-- The Write-back turn of an odd tick. -/
theorem State.beginTick_writebackPhase {s : State} (he : s.evenTick = true) :
    s.beginTick.writebackPhase =
      if 6 ≤ s.t ∧ s.M.live = true then s.beginTick.giveTurn .writeback s.M.dec.instr else .next s.beginTick := by
  rw [State.writebackPhase, State.beginTick_W]
  exact if_congr (State.beginTick_writebackActs_iff he) rfl rfl

/-- The Memory turn of an even tick. -/
theorem State.beginTick_memoryPhase {s : State} (he : s.evenTick = false) :
    s.beginTick.memoryPhase =
      if 5 ≤ s.t ∧ s.E.live = true then s.beginTick.giveTurn .memory s.E.dec.instr else .next s.beginTick := by
  rw [State.memoryPhase, State.beginTick_M]
  exact if_congr (State.beginTick_memoryActs_iff he) rfl rfl

theorem State.executePhase_even {s : State} (he : s.evenTick = true) :
    s.executePhase = if s.E.live = true then s.giveTurn .execute s.E.dec.instr else .next s :=
  if_congr (by rw [State.executeActs, he, Bool.true_and]) rfl rfl

theorem State.decodePhase_even {s : State} (he : s.evenTick = true) :
    s.decodePhase = if s.D.live = true then s.giveTurn .decode (decode s.D.word) else .next s :=
  if_congr (by rw [State.decodeActs, he, Bool.true_and]) rfl rfl

/-! ### The odd and the even tick -/

/-- Settles O30: Write-back cannot abort, so Fetch always follows it. -/
theorem stepRunsWritebackTurn : Obligations.StepRunsWritebackTurn := by
  rintro s _ hr ha ht rfl
  have he := s.evenTick_iff.mpr ht
  obtain ⟨s₁, hw⟩ := s.beginTick.writebackPhase_next
  obtain ⟨-, -, habort⟩ := State.writebackPhase_frame hw
  calc step s = andThen s.beginTick.writebackPhase fun s₁ => andThen s₁.fetchPhase fun s₂ => .next s₂.haltTest := by
        rw [step_of_running hr, advance_odd he, hw, andThen_next, andThen_next, habort, State.beginTick_abort, ha]
        rfl
    _ = _ := by
        rw [State.beginTick_writebackPhase he]
        rfl

/-- Behind the Memory turn of an even tick, Execute and Decode run the instructions of the contexts that D and F held. -/
theorem State.memoryPhase_then_turns {s s₁ s₂ : State} (he : s.evenTick = false) (hm : s.beginTick.memoryPhase = .next s₁)
    (hx : s₁.executePhase = .next s₂) :
    (s₁.executePhase = if s.D.live = true then s₁.giveTurn .execute s.D.dec.instr else .next s₁) ∧
      s₂.decodePhase = if s₂.D.live = true then s₂.giveTurn .decode (decode s.F.word) else .next s₂ := by
  obtain ⟨-, -, hE₁, hD₁, -⟩ := State.memoryPhase_frame hm
  obtain ⟨hE₀, hD₀⟩ := State.beginTick_even_slots he
  obtain ⟨-, -, -, hD₂⟩ := State.executePhase_keeps hx
  have he₁ : s₁.evenTick = true := by
    rw [State.evenTick_congr (State.memoryPhase_slotsKept hm).t, State.beginTick_evenTick, he]
    rfl
  have he₂ : s₂.evenTick = true := (State.evenTick_congr (State.executePhase_slotsKept hx).t).trans he₁
  have hword : s₂.D.word = s.F.word := by rw [hD₂, hD₁, hD₀]
  rw [State.executePhase_even he₁, State.decodePhase_even he₂, hE₁, hE₀, hword]
  exact ⟨rfl, rfl⟩

/-- Settles O31: Memory, then, unless it aborted, Execute and Decode. -/
theorem stepRunsMemoryExecuteDecodeTurns : Obligations.StepRunsMemoryExecuteDecodeTurns := by
  rintro s _ _ _ hr - ht rfl rfl rfl
  have he := s.evenTick_eq_false_iff.mpr ht
  obtain ⟨s₁, hm⟩ := s.beginTick.memoryPhase_next
  obtain ⟨s₂, hx⟩ := s₁.executePhase_next
  obtain ⟨hexecute, hdecode⟩ := State.memoryPhase_then_turns he hm hx
  have hmemory := (State.beginTick_memoryPhase he).symm.trans hm
  simp only [State.giveTurn] at hmemory hexecute hdecode
  rw [step_of_running hr, advance_even he, hm, hmemory, andThen_next, andThen_next, ← hexecute, hx, andThen_next,
    andThen_next, hdecode]

end Sys2Proof.Machine

/-! ### Fetch, then Decode -/

namespace Sys2Proof.Machine

/-- With nothing live in D and E an even tick is the Decode turn of the live word in F. -/
theorem step_even_decodes {s : State} (hr : s.running = true) (ha : s.abort = false) (he : s.evenTick = false)
    (hE : s.E.live = false) (hD : s.D.live = false) (hF : s.F.live = true) :
    step s = andThen (exec (decode s.F.word) (s.beginTick.setTurn .decode)) fun s' =>
      .next (s'.setTurn .rest).haltTest := by
  have hD₁ : s.beginTick.D.live = true := by rw [(State.beginTick_even_slots he).2, hF]
  rw [stepRunsMemoryExecuteDecodeTurns s _ _ _ hr ha (s.evenTick_eq_false_iff.mp he) rfl rfl rfl,
    if_neg (by simp [hE]), andThen_next, if_neg (by simp [ha]), if_neg (by simp [hD]), andThen_next, if_pos hD₁,
    andThen_assoc]
  rfl

/-- Settles O32. -/
theorem stepFetchesThenDecodes : Obligations.StepFetchesThenDecodes := by
  rintro s _ h rfl
  obtain ⟨s₁, h₁⟩ := step_next h.count
  have hF := step_odd_fetches h.running h.notAborted h.evenTick h.count h.inProgram h₁
  obtain ⟨-, hmem, hD, hE, -⟩ := step_odd_keeps h.running h.notAborted h.evenTick h₁
  have hlive : s₁.F.live = true := by rw [hF]; rfl
  have r₁ := h.runs.odd h.evenTick h.slotM h₁ (.inl hlive)
  have hdecodes := step_even_decodes r₁.running r₁.notAborted (r₁.oddTick h.evenTick rfl) (by rw [hE, h.slotE])
    (by rw [hD, h.slotD]) hlive
  have hword : s₁.F.word = Memory.read s.mem s.pc.toNat := by rw [hF]
  rw [hword] at hdecodes
  exact ⟨s₁, h₁, hlive, hword, by rw [hF], step_odd_pc h.running h.notAborted h.evenTick h.inProgram h₁, r₁.t, r₁.regs,
    hmem, hdecodes⟩

end Sys2Proof.Machine

/-! ### The turn, the copies and the halt test of a step -/

namespace Sys2Proof.Machine

/-! ### No stage keeps its turn -/

theorem State.writebackPhase_turn {s s' : State} (h : s.writebackPhase = .next s') (ht : s.turn = .rest) :
    s'.turn = .rest := by
  rcases State.writebackPhase_inv h with rfl | rfl | ⟨ra, rfl⟩
  · exact ht
  all_goals rfl

theorem State.memoryPhase_turn {s s' : State} (h : s.memoryPhase = .next s') (ht : s.turn = .rest) :
    s'.turn = .rest := by
  rcases State.memoryPhase_inv h with rfl | ⟨s₁, -, rfl⟩
  · exact ht
  · rfl

theorem State.executePhase_turn {s s' : State} (h : s.executePhase = .next s') (ht : s.turn = .rest) :
    s'.turn = .rest := by
  rcases State.executePhase_inv h with rfl | ⟨s₁, -, rfl⟩
  · exact ht
  · rfl

theorem State.decodePhase_turn {s s' : State} (h : s.decodePhase = .next s') (ht : s.turn = .rest) :
    s'.turn = .rest := by
  rcases State.decodePhase_inv h with ⟨-, rfl⟩ | ⟨-, rfl⟩
  · exact ht
  · rfl

theorem State.fetchPhase_turn {s s' : State} (he : s.evenTick = false) (h : s.fetchPhase = .next s') :
    s'.turn = s.turn := by
  rcases State.fetchPhase_inv he h with ⟨-, w, rfl⟩ | ⟨-, rfl⟩ <;> rfl

theorem step_turn {s s' : State} (hr : s.running = true) (h : step s = .next s') (ht : s.turn = .rest) :
    s'.turn = .rest := by
  rw [← State.beginTick_turn] at ht
  cases he : s.evenTick with
  | true =>
    obtain ⟨s₁, hw, ho, ⟨-, rfl⟩ | ⟨-, s₂, hf, rfl⟩⟩ := step_odd_cases hr he h
    · exact State.writebackPhase_turn hw ht
    · rw [State.haltTest_turn, State.fetchPhase_turn ho hf, State.writebackPhase_turn hw ht]
  | false =>
    obtain ⟨s₁, hm, ⟨-, rfl⟩ | ⟨-, s₂, s₃, hx, hd, rfl⟩⟩ := step_even_cases hr he h
    · exact State.memoryPhase_turn hm ht
    · rw [State.haltTest_turn, State.decodePhase_turn hd (State.executePhase_turn hx (State.memoryPhase_turn hm ht))]

/-- Settles O33. -/
theorem advanceCountsOneTick : Obligations.AdvanceCountsOneTick := fun s _ hr h =>
  ⟨step_t hr h, (step_slotsKept hr h).n.trans s.beginTick_n, step_turn hr h⟩

/-! ### What an even tick's turns leave of the contexts -/

/-- Between the copies and the end of an even tick: W is left alone, M but for a result, E but for a result and an address,
and of D the mark and what Decode loads may change. -/
structure State.ContextsKept (s s' : State) : Prop where
  W : s'.W = s.W
  M : ∃ r, s'.M = { s.M with result := r }
  E : ∃ r a, s'.E = { s.E with result := r, ea := a }
  D : ∃ f dec b c, s'.D = { s.D with flush := f, dec := dec, valB := b, valC := c } ∧ (f = s.D.flush ∨ f = true)

theorem State.ContextsKept.trans {s₁ s₂ s₃ : State} (h : s₁.ContextsKept s₂) (h' : s₂.ContextsKept s₃) :
    s₁.ContextsKept s₃ := by
  obtain ⟨hW, ⟨r, hM⟩, ⟨re, ae, hE⟩, ⟨f, dec, b, c, hD, hf⟩⟩ := h
  obtain ⟨hW', ⟨r', hM'⟩, ⟨re', ae', hE'⟩, ⟨f', dec', b', c', hD', hf'⟩⟩ := h'
  refine ⟨hW'.trans hW, ⟨r', by rw [hM', hM]⟩, ⟨re', ae', by rw [hE', hE]⟩, ⟨f', dec', b', c', by rw [hD', hD], ?_⟩⟩
  rcases hf' with rfl | rfl
  · rwa [hD]
  · exact .inr rfl

theorem State.memoryPhase_contextsKept {s s' : State} (h : s.memoryPhase = .next s') : s.ContextsKept s' := by
  rcases State.memoryPhase_inv h with rfl | ⟨s₁, rfl | ⟨-, rfl⟩ | ⟨-, v, rfl⟩ | ⟨-, k, -, rfl⟩, rfl⟩ <;>
    exact ⟨rfl, ⟨_, rfl⟩, ⟨_, _, rfl⟩, ⟨_, _, _, _, rfl, .inl rfl⟩⟩

theorem State.executePhase_contextsKept {s s' : State} (h : s.executePhase = .next s') : s.ContextsKept s' := by
  rcases State.executePhase_inv h with rfl | ⟨s₁, ⟨v, rfl⟩ | ⟨imm, rfl⟩ | rfl | rfl | ⟨a, rfl⟩, rfl⟩
  case inr.inr.inr.inr.inl => exact ⟨rfl, ⟨_, rfl⟩, ⟨_, _, rfl⟩, ⟨_, _, _, _, rfl, .inr rfl⟩⟩
  case inr.inr.inr.inr.inr => exact ⟨rfl, ⟨_, rfl⟩, ⟨_, _, rfl⟩, ⟨_, _, _, _, rfl, .inr rfl⟩⟩
  all_goals exact ⟨rfl, ⟨_, rfl⟩, ⟨_, _, rfl⟩, ⟨_, _, _, _, rfl, .inl rfl⟩⟩

theorem State.decodePhase_contextsKept {s s' : State} (h : s.decodePhase = .next s') : s.ContextsKept s' := by
  rcases State.decodePhase_inv h with ⟨-, rfl⟩ | ⟨-, rfl⟩ <;>
    exact ⟨rfl, ⟨_, rfl⟩, ⟨_, _, rfl⟩, ⟨_, _, _, _, rfl, .inl rfl⟩⟩

theorem State.haltTest_contextsKept (s : State) : s.ContextsKept s.haltTest :=
  ⟨s.haltTest_W, ⟨_, s.haltTest_M⟩, ⟨_, _, s.haltTest_E⟩, ⟨_, _, _, _, s.haltTest_D, .inl rfl⟩⟩

theorem step_even_contextsKept {s s' : State} (hr : s.running = true) (he : s.evenTick = false) (h : step s = .next s') :
    s.beginTick.ContextsKept s' := by
  obtain ⟨s₁, hm, ⟨-, rfl⟩ | ⟨-, s₂, s₃, hx, hd, rfl⟩⟩ := step_even_cases hr he h
  · exact State.memoryPhase_contextsKept hm
  · exact (((State.memoryPhase_contextsKept hm).trans (State.executePhase_contextsKept hx)).trans
      (State.decodePhase_contextsKept hd)).trans s₃.haltTest_contextsKept

/-! ### The copies -/

theorem State.writebackPhase_W {s s' : State} (h : s.writebackPhase = .next s') : s'.W = s.W := by
  rcases State.writebackPhase_inv h with rfl | rfl | ⟨ra, rfl⟩ <;> rfl

theorem State.fetchPhase_W {s s' : State} (he : s.evenTick = false) (h : s.fetchPhase = .next s') : s'.W = s.W := by
  rcases State.fetchPhase_inv he h with ⟨-, w, rfl⟩ | ⟨-, rfl⟩ <;> rfl

/-- On an odd tick W takes M's context and M takes E's, whole, and D and E keep theirs, in an aborted state too. -/
theorem step_odd_contexts {s s' : State} (hr : s.running = true) (he : s.evenTick = true) (h : step s = .next s') :
    s'.W = s.M ∧ s'.M = s.E ∧ s'.E = s.E ∧ s'.D = s.D := by
  obtain ⟨s₁, hw, ho, hrest⟩ := step_odd_cases hr he h
  obtain ⟨-, hD, hE, hM, -⟩ := State.writebackPhase_keeps hw
  have hW := State.writebackPhase_W hw
  rw [State.beginTick_odd he] at hW hM hE hD
  rcases hrest with ⟨-, rfl⟩ | ⟨-, s₂, hf, rfl⟩
  · exact ⟨hW, hM, hE, hD⟩
  · obtain ⟨-, hD', hE', hM', -⟩ := State.fetchPhase_keeps ho hf
    rw [State.haltTest_W, State.haltTest_M, State.haltTest_E, State.haltTest_D, State.fetchPhase_W ho hf, hM', hE', hD']
    exact ⟨hW, hM, hE, hD⟩

/-- Settles O34. -/
theorem contextsMoveByOneSlot : Obligations.ContextsMoveByOneSlot := by
  intro s s' hr h
  cases he : s.evenTick with
  | true =>
    have heven := s.evenTick_iff.mp he
    obtain ⟨hW, hM, hE, hD⟩ := step_odd_contexts hr he h
    exact ⟨hW, ⟨s.E.result, hM⟩, fun _ => ⟨hM, hE, hD⟩, fun ht => by omega⟩
  | false =>
    have hodd := s.evenTick_eq_false_iff.mp he
    obtain ⟨hW, hM, ⟨r, a, hE⟩, ⟨f, dec, b, c, hD, hf⟩⟩ := step_even_contextsKept hr he h
    rw [State.beginTick_even he] at hW hM hE hD hf
    refine ⟨hW, hM, fun ht => by omega, fun _ => ?_⟩
    rw [hE, hD]
    exact ⟨rfl, rfl, rfl, rfl, rfl, rfl, rfl, rfl, rfl, rfl, hf⟩

/-! ### The halt test -/

theorem State.drained_iff (s : State) :
    s.drained = true ↔ s.n.toNat ≤ s.pc.toNat ∧ s.F.live = false ∧ s.D.live = false ∧ s.E.live = false ∧
      s.M.live = false := by
  simp [State.drained, State.pcInProgram, and_assoc]

theorem State.haltTest_drained (s : State) : s.haltTest.drained = s.drained := by
  simp [State.drained, State.pcInProgram]

theorem State.haltTest_halted (s : State) : s.haltTest.halted = (s.halted || s.drained) := by
  cases h : s.drained <;> simp [State.haltTest, h]

theorem State.haltTest_running (s : State) : s.haltTest.running = (s.running && !s.drained) := by
  cases h : s.drained <;> simp [State.haltTest, h]

/-- A step of a running machine that does not abort ends with the halt test, on a state that still has the invariant of an
advance. -/
theorem State.Inv.step_eq_haltTest {s s' : State} (hi : s.Inv) (hr : s.running = true) (h : step s = .next s')
    (ha' : s'.abort = false) : ∃ u : State, u.Advancing ∧ s' = u.haltTest := by
  obtain ⟨-, ha⟩ := hi.runningClear hr
  have h₀ := hi.beginTick hr
  cases he : s.evenTick with
  | true =>
    obtain ⟨s₁, s₂, hw, ho, hf, -, rfl⟩ := step_odd_inv hr ha he h
    exact ⟨s₂, (h₀.writebackPhase hw).fetchPhase ho hf, rfl⟩
  | false =>
    obtain ⟨s₁, s₂, s₃, hm, hx, he₁, hd, -, rfl⟩ := step_even_inv hr he h ha'
    have he₂ : s₂.evenTick = true := (State.evenTick_congr (State.executePhase_slotsKept hx).t).trans he₁
    exact ⟨s₃, (((h₀.memoryPhase hm).executePhase hx).decodePhase he₂ hd).1, rfl⟩

/-- Settles O40. -/
theorem haltsExactlyWhenDrained : Obligations.HaltsExactlyWhenDrained := by
  intro s s' hi hr h ha'
  obtain ⟨u, hu, rfl⟩ := hi.step_eq_haltTest hr h ha'
  rw [State.haltTest_abort] at ha'
  rw [← State.drained_iff, State.haltTest_drained, State.haltTest_running, State.haltTest_halted, hu.halted, hu.running, ha']
  simp

end Sys2Proof.Machine

/-! ### The timetable of one instruction (R224) -/

namespace Sys2Proof.Machine

/-- Settles O48: the odd ticks between the Decode, the Execute and the Memory turn only copy. -/
theorem instructionKeepsItsTimetable : Obligations.InstructionKeepsItsTimetable := by
  intro s h hb
  obtain ⟨s₁, r₁, hF₁, -⟩ := h.afterFetch
  obtain ⟨s₂, r₂, hD₂, -⟩ := h.afterDecode
  obtain ⟨s₄, r₄, hE₄, hM₄⟩ := h.afterExecute
  obtain ⟨s₆, r₆, -, -, hM₆⟩ := h.afterMemory hb
  obtain ⟨s₃, h₃⟩ := r₂.exists_step h.count
  obtain ⟨s₅, h₅⟩ := r₄.exists_step h.count
  obtain ⟨s₇, h₇⟩ := r₆.exists_step h.count
  obtain ⟨-, -, -, hD₃⟩ := step_odd_contexts r₂.running (r₂.evenTick h.evenTick rfl) h₃
  have he₄ := r₄.evenTick h.evenTick rfl
  obtain ⟨-, hM₅, hE₅, -⟩ := step_odd_contexts r₄.running he₄ h₅
  have r₅ := r₄.odd he₄ hM₄ h₅ (.inr (.inr (.inl (by rw [hE₅, hE₄.live]))))
  have h₆ : step s₅ = .next s₆ := by
    obtain ⟨s₆', h₆⟩ := r₅.exists_step h.count
    rw [h₆, eq_of_next r₆.run (runTicks_snoc r₅.run h₆)]
  obtain ⟨hW₆, -⟩ := contextsMoveByOneSlot s₅ s₆ r₅.running h₆
  obtain ⟨hW₇, -⟩ := step_odd_contexts r₆.running (r₆.evenTick h.evenTick rfl) h₇
  refine ⟨s₁, s₂, s₃, s₄, s₅, s₆, s₇, r₁.run, r₂.run, runTicks_snoc r₂.run h₃, r₄.run, r₅.run, r₆.run,
    runTicks_snoc r₆.run h₇, ?_⟩
  have carries : ∀ {c : Context}, c.Carries (Memory.read s.mem s.pc.toNat) (s.pc + 1) →
      c.live = true ∧ c.word = Memory.read s.mem s.pc.toNat ∧ c.pc = s.pc + 1 := fun hc => ⟨hc.live, hc.word, hc.pc⟩
  rw [hD₃, hE₅, hM₅, hW₆, hM₅, hW₇]
  simp only [List.forall_mem_cons, List.not_mem_nil, false_imp_iff, implies_true, and_true]
  exact ⟨carries hF₁, carries hD₂.toCarries, carries hD₂.toCarries, carries hE₄.toCarries, carries hE₄.toCarries,
    carries hE₄.toCarries, carries hM₆.toCarries, carries hE₄.toCarries, carries hM₆.toCarries⟩

end Sys2Proof.Machine

/-! ### The halt behind the last instruction (R227, R230) -/

namespace Sys2Proof.Machine

/-- A run in two parts. -/
theorem runTicks_add {k : Nat} {s s' : State} (h : runTicks k s = .next s') (j : Nat) :
    runTicks (k + j) s = runTicks j s' := by
  induction k generalizing s with
  | zero =>
    cases h
    rw [Nat.zero_add]
  | succ k ih =>
    rw [runTicks_succ] at h
    obtain ⟨s₁, hs₁, h⟩ := andThen_eq_next h
    rw [Nat.add_right_comm, runTicks_succ, hs₁, andThen_next, ih h]

/-- An even tick leaves pc alone unless a JEQ or JMP has its Execute turn (R37). -/
theorem step_even_pc_of_no_transfer {s s' : State} (he : s.evenTick = false) (hjeq : s.D.dec.op ≠ 4#4)
    (hjmp : s.D.dec.op ≠ 7#4) (h : step s = .next s') : s'.pc = s.pc := by
  have hodd := s.evenTick_eq_false_iff.mp he
  rcases pcChangesOnlyByFetchOrRedirect s s' h with hpc | ⟨hr, ht, -⟩ | ⟨-, -, -, hop, -⟩ | ⟨-, -, -, hop, -⟩
  · exact hpc
  · rw [step_t hr h] at ht
    omega
  · exact absurd hop hjeq
  · exact absurd hop hjmp

/-- With pc at N or beyond an odd tick leaves a bubble in F (R223). -/
theorem step_odd_F_dead_of_end {s s' : State} (hr : s.running = true) (ha : s.abort = false) (he : s.evenTick = true)
    (hp : ¬ s.pc.toNat < s.n.toNat) (h : step s = .next s') : s'.F.live = false := by
  have hvalid := mt (step_odd_F_valid hr ha he h).mp hp
  simp [Context.live, hvalid]

/-- With pc at N or beyond and nothing live in D and E an odd tick ends the run: its Write-back was the last (R230). -/
theorem step_odd_halts {s s' : State} (hr : s.running = true) (ha : s.abort = false) (he : s.evenTick = true)
    (hp : ¬ s.pc.toNat < s.n.toNat) (hD : s.D.live = false) (hE : s.E.live = false) (h : step s = .next s') :
    s'.halted = true ∧ s'.running = false := by
  have hn : s'.n = s.n := (step_slotsKept hr h).n.trans s.beginTick_n
  obtain ⟨-, hM', hE', hD'⟩ := step_odd_contexts hr he h
  have hdrained : s'.drained = true := s'.drained_iff.mpr
    ⟨by rw [step_odd_pc_of_end he hp h, hn]; omega, step_odd_F_dead_of_end hr ha he hp h, by rw [hD', hD],
      by rw [hE', hE], by rw [hM', hE]⟩
  obtain ⟨_, u, -, -, -, -, rfl⟩ := step_odd_inv hr ha he h
  rw [State.haltTest_drained] at hdrained
  simp [State.haltTest_halted, State.haltTest_running, hdrained]

namespace State.ReadyToFetch

variable {s : State} (h : s.ReadyToFetch) (hlast : s.pc.toNat + 1 = s.n.toNat)

include h hlast

/-- Tick 3: the last instruction stands in D, and nothing was fetched behind it. -/
theorem afterLastFetch :
    ∃ s₃, s.RunsUnwritten 3 s₃ ∧ s₃.D.Latched (Memory.read s.mem s.pc.toNat) (s.pc + 1) s ∧ s₃.F.live = false ∧
      s₃.E.live = false ∧ s₃.pc.toNat = s.n.toNat := by
  obtain ⟨s₂, r₂, hD, hE, hM⟩ := h.afterDecode
  have hpc₂ : s₂.pc.toNat = s.n.toNat := by
    rw [h.pc_after_two_ticks r₂.run, toNat_add_one_of_lt h.inProgram, hlast]
  have hend : ¬ s₂.pc.toNat < s₂.n.toNat := by rw [hpc₂, r₂.n]; exact lt_irrefl _
  have he₂ := r₂.evenTick h.evenTick rfl
  obtain ⟨s₃, h₃⟩ := r₂.exists_step h.count
  obtain ⟨-, -, hE₃, hD₃⟩ := step_odd_contexts r₂.running he₂ h₃
  rw [← hD₃] at hD
  exact ⟨s₃, r₂.odd he₂ hM h₃ (.inr (.inl hD.live)), hD,
    step_odd_F_dead_of_end r₂.running r₂.notAborted he₂ hend h₃, by rw [hE₃, hE],
    by rw [step_odd_pc_of_end he₂ hend h₃, hpc₂]⟩

section NoTransfer

variable (hjeq : (s.instrAt s.pc.toNat).opcode ≠ 4#4) (hjmp : (s.instrAt s.pc.toNat).opcode ≠ 7#4)

include hjeq hjmp

/-- Tick 5: the last instruction, no transfer, stands in E, and nothing is live behind it. -/
theorem afterLastExecute :
    ∃ s₅, s.RunsUnwritten 5 s₅ ∧ s₅.E.Computed (Memory.read s.mem s.pc.toNat) (s.pc + 1) s ∧ s₅.F.live = false ∧
      s₅.D.live = false ∧ s₅.pc.toNat = s.n.toNat := by
  obtain ⟨s₃, r₃, hD, hF, hE, hpc⟩ := h.afterLastFetch hlast
  have hop : s₃.D.dec.op = (s.instrAt s.pc.toNat).opcode := by
    rw [hD.dec, ← Fields.instr_opcode]
    rfl
  rw [← hop] at hjeq hjmp
  obtain ⟨s₄, h₄, r₄, hE₄, hM₄⟩ := h.executeFirst r₃ hD hE
  have he₃ := r₃.oddTick h.evenTick rfl
  have he₄ := r₄.evenTick h.evenTick rfl
  have hpc₄ : s₄.pc.toNat = s.n.toNat := by rw [step_even_pc_of_no_transfer he₃ hjeq hjmp h₄, hpc]
  have hend : ¬ s₄.pc.toNat < s₄.n.toNat := by rw [hpc₄, r₄.n]; exact lt_irrefl _
  obtain ⟨s₅, h₅⟩ := r₄.exists_step h.count
  obtain ⟨-, -, hE₅, hD₅⟩ := step_odd_contexts r₄.running he₄ h₅
  rw [← hE₅] at hE₄
  exact ⟨s₅, r₄.odd he₄ hM₄ h₅ (.inr (.inr (.inl hE₄.live))), hE₄,
    step_odd_F_dead_of_end r₄.running r₄.notAborted he₄ hend h₅,
    by rw [hD₅, step_even_unmarked_of_no_transfer r₃.running he₃ hjeq hjmp h₄ r₄.notAborted, hF],
    by rw [step_odd_pc_of_end he₄ hend h₅, hpc₄]⟩

/-- Tick 6: the last instruction stands in M, its access made inside memory, and nothing is live behind it. -/
theorem afterLastMemory (hb : ∀ a, netAddress (s.instrAt s.pc.toNat) s = some a → inBounds a = true) :
    ∃ s₆, s.Runs 6 s₆ ∧ s₆.D.live = false ∧ s₆.E.live = false ∧ s₆.pc.toNat = s.n.toNat := by
  obtain ⟨s₅, r₅, hE, hF, hD, hpc⟩ := h.afterLastExecute hlast hjeq hjmp
  have he₅ := r₅.oddTick h.evenTick rfl
  obtain ⟨s₆, h₆⟩ := r₅.exists_step h.count
  obtain ⟨ha, -, hM₆⟩ := step_even_completes r₅.running he₅ r₅.notAborted (by rw [r₅.t]; omega) hE r₅.regs r₅.mem hb h₆
  obtain ⟨-, -, -, hE₆⟩ := step_even_slots_of_dead r₅.running he₅ hD h₆ ha
  exact ⟨s₆, r₅.next h₆ ha (.inr (.inr (.inr hM₆.live))), by rw [step_even_unmarked r₅.running he₅ hD h₆ ha, hF],
    by rw [hE₆, hD], by rw [step_even_pc_of_dead he₅ hD h₆, hpc]⟩

end NoTransfer

end State.ReadyToFetch

/-- Settles O59: the Write-back tick of the last instruction leaves nothing live, and a halted machine stays as it is. -/
theorem lastInstructionHalts : Obligations.LastInstructionHalts := by
  intro s k h _ hlast hjeq hjmp hb
  obtain ⟨s₆, r₆, hD, hE, hpc⟩ := h.afterLastMemory hlast hjeq hjmp hb
  have he₆ := r₆.evenTick h.evenTick rfl
  have hend : ¬ s₆.pc.toNat < s₆.n.toNat := by rw [hpc, r₆.n]; exact lt_irrefl _
  obtain ⟨s₇, h₇⟩ := r₆.exists_step h.count
  obtain ⟨hhalted, hstopped⟩ := step_odd_halts r₆.running r₆.notAborted he₆ hend hD hE h₇
  have hn : s₇.n = s.n := ((step_slotsKept r₆.running h₇).n.trans s₆.beginTick_n).trans r₆.n
  refine ⟨s₇, ?_, hhalted, hstopped, by rw [step_t r₆.running h₇, r₆.t], ?_, hn⟩
  · rw [runTicks_add (runTicks_snoc r₆.run h₇), runTicks_of_not_running hstopped]
  · rw [step_odd_pc_of_end he₆ hend h₇, hpc, hn]

end Sys2Proof.Machine

/-! ### The family of file 60: exceptions

The one exception, an access outside memory: when a step aborts, the state it leaves, and the run of the instruction that
makes the access. -/

namespace Sys2Proof.Machine

/-- Settles O28. -/
theorem noAdvanceWhileNotRunning : Obligations.NoAdvanceWhileNotRunning := fun _ => step_of_not_running

/-! ### The instructions that make an access -/

/-- The code `abort_kind` of an instruction whose access is outside memory; none for one that makes no access (R53, R262). -/
def accessKind : Instr → Option (BitVec 2)
  | .movr _ _ _ => some abortLoad
  | .movm _ _ _ => some abortStore
  | .add _ _ _ | .sub _ _ _ | .mul _ _ _ | .movi _ _ | .jeq _ _ _ | .and _ _ _ | .xori _ _ _ | .jmp _ | .lsl _ _ _ |
      .lsr _ _ _ | .undef _ _ => none

/-- The instructions with an access are those with an address to access. -/
theorem accessKind_of_netAddress {i : Instr} {s : State} {a : Word} (h : netAddress i s = some a) :
    accessKind i = some (if i.opcode = 10#4 then 1 else 2) := by
  cases i with
  | movr | movm => rfl
  | _ => cases h

theorem accessKind_eq_some {i : Instr} {k : BitVec 2} (h : accessKind i = some k) :
    k = if i.opcode = 10#4 then 1 else 2 := by
  cases i with
  | movr | movm => exact (Option.some.inj h).symm
  | _ => cases h

/-- By opcode: 10 loads, 11 stores, and no other makes an access. -/
theorem exists_accessKind_instr_iff (f : Fields) :
    (∃ k, accessKind f.instr = some k) ↔ f.op = 10#4 ∨ f.op = 11#4 := by
  unfold Fields.instr
  split
  case h_13 => simp_all [accessKind, ← BitVec.toNat_inj]
  all_goals
    rename_i hop
    simp [opcode_eq_of_toNat hop, accessKind]

/-! ### The Memory turn of an access outside memory -/

theorem exec_memory_of_outside {i : Instr} {s : State} {k : BitVec 2} (ht : s.turn = .memory)
    (hk : accessKind i = some k) (hb : inBounds s.M.ea = false) : exec i s = .next (s.raiseAbort k) := by
  cases i with
  | movr ra rb imm =>
    cases hk
    rw [exec_movr_memory ht, State.loadTurn_out hb]
  | movm ra rb imm =>
    cases hk
    rw [exec_movm_memory ht, State.storeTurn_out ra hb]
  | _ => cases hk

/-- No other Memory turn aborts. -/
theorem exec_memory_abort_inv {i : Instr} {s s' : State} (ht : s.turn = .memory) (ha : s.abort = false)
    (h : exec i s = .next s') (ha' : s'.abort = true) :
    (∃ k, accessKind i = some k) ∧ inBounds s.M.ea = false := by
  constructor
  · cases hn : netAddress i s with
    | some a => exact ⟨_, accessKind_of_netAddress hn⟩
    | none =>
      obtain ⟨-, -, hexec⟩ := noAccess_of_netAddress_eq_none hn
      rw [eq_of_next h (hexec s ht), ha] at ha'
      cases ha'
  · obtain ⟨s₁, hexec, heffect⟩ := exec_memory_cases i ht
    obtain rfl := eq_of_next h hexec
    rcases heffect with rfl | ⟨-, rfl⟩ | ⟨-, v, rfl⟩ | ⟨hb, -⟩
    case inr.inr.inr => exact hb
    -- nothing done, a load or a store inside memory: the abort flag is the old one
    all_goals exact absurd (ha.symm.trans ha') Bool.false_ne_true

/-! ### The step that aborts -/

/-- The next tick is the Memory turn of an access outside memory, to be recorded with the code `k` (R213, R262). -/
structure State.AbortsNext (s : State) (k : BitVec 2) : Prop where
  running : s.running = true
  evenNext : s.evenTick = false
  memStart : 5 ≤ s.t
  live : s.E.live = true
  kind : accessKind s.E.dec.instr = some k
  outside : inBounds s.E.ea = false

/-- The rest of the advance is skipped (R266). -/
theorem State.AbortsNext.step_eq {s : State} {k : BitVec 2} (h : s.AbortsNext k) :
    step s = .next ((s.beginTick.raiseAbort k).setTurn .rest) := by
  have hexec : exec s.E.dec.instr (s.beginTick.setTurn .memory) = .next ((s.beginTick.setTurn .memory).raiseAbort k) :=
    exec_memory_of_outside rfl h.kind (by rw [State.setTurn_M, State.beginTick_M, h.outside])
  rw [step_of_running h.running, advance_even h.evenNext, State.beginTick_memoryPhase h.evenNext,
    if_pos ⟨h.memStart, h.live⟩, State.giveTurn_next hexec, andThen_next]
  rfl

/-- No other step aborts. -/
theorem State.abortsNext_of_step {s s' : State} (ha : s.abort = false) (h : step s = .next s') (ha' : s'.abort = true) :
    ∃ k, s.AbortsNext k := by
  have hr : s.running = true := by
    by_contra hr
    rw [← eq_of_next (step_of_not_running (by simpa using hr)) h, ha] at ha'
    cases ha'
  have he : s.evenTick = false := by
    by_contra he
    rw [(step_mem_of_evenTick ha (by simpa using he) h).2] at ha'
    cases ha'
  obtain ⟨s₁, hm, habort, -⟩ := step_even_memory hr he h
  rw [habort] at ha'
  rw [State.beginTick_memoryPhase he] at hm
  split at hm
  case isTrue hact =>
    obtain ⟨s₂, hexec, hs₁⟩ := andThen_eq_next hm
    cases hs₁
    obtain ⟨⟨k, hk⟩, hb⟩ :=
      exec_memory_abort_inv (s := s.beginTick.setTurn .memory) rfl (s.beginTick_abort.trans ha) hexec ha'
    rw [State.setTurn_M, State.beginTick_M] at hb
    exact ⟨k, hr, he, hact.1, hact.2, hk, hb⟩
  case isFalse =>
    cases hm
    rw [State.beginTick_abort, ha] at ha'
    cases ha'

/-- The step that aborts, in the words of R262: by opcode, address and tick. -/
theorem State.abortsNext_iff {s : State} :
    (∃ k, s.AbortsNext k) ↔
      s.running = true ∧ (s.t + 1) % 2 = 0 ∧ 6 ≤ s.t + 1 ∧ s.E.live = true ∧ (s.E.dec.op = 10#4 ∨ s.E.dec.op = 11#4) ∧
        2048 ≤ s.E.ea.toNat := by
  have hparity : s.evenTick = false ↔ (s.t + 1) % 2 = 0 := by
    rw [State.evenTick_eq_false_iff]
    omega
  rw [← hparity, ← exists_accessKind_instr_iff, ← inBounds_eq_false_iff]
  constructor
  · rintro ⟨k, h⟩
    exact ⟨h.running, h.evenNext, Nat.succ_le_succ h.memStart, h.live, ⟨k, h.kind⟩, h.outside⟩
  · rintro ⟨hr, he, ht, hlive, ⟨k, hk⟩, hb⟩
    exact ⟨k, hr, he, Nat.le_of_succ_le_succ ht, hlive, hk, hb⟩

/-- Settles O38: of the turns only Memory aborts, for an access outside memory. -/
theorem onlyOutOfBoundsAccessAborts : Obligations.OnlyOutOfBoundsAccessAborts := by
  intro s s' ha h
  have hiff : s'.abort = true ↔ ∃ k, s.AbortsNext k := by
    refine ⟨State.abortsNext_of_step ha h, ?_⟩
    rintro ⟨k, hk⟩
    rw [eq_of_next h hk.step_eq]
    rfl
  refine ⟨?_, fun ha' => ?_⟩
  · rw [hiff, State.abortsNext_iff]
    exact and_congr_right fun hr => by rw [step_t hr h]
  · obtain ⟨k, hk⟩ := hiff.mp ha'
    rw [eq_of_next h hk.step_eq]
    rfl

/-- Settles O39: the tick and the copies come before the Memory turn that aborts, and nothing after it. -/
theorem abortLeavesTheRestUndone : Obligations.AbortLeavesTheRestUndone := by
  intro s s' ha hturn h ha'
  obtain ⟨k, hk⟩ := State.abortsNext_of_step ha h ha'
  have hcode : k = if s.E.dec.op = 10#4 then 1 else 2 := by
    rw [accessKind_eq_some hk.kind, Fields.instr_opcode]
  rw [eq_of_next h hk.step_eq, State.beginTick_even hk.evenNext, ← hcode, State.raiseAbort, State.setTurn, ← hturn]

/-! ### Only the halt test sets halted -/

theorem State.memoryPhase_halted {s s' : State} (h : s.memoryPhase = .next s') : s'.halted = s.halted := by
  rcases State.memoryPhase_inv h with rfl | ⟨s₁, rfl | ⟨-, rfl⟩ | ⟨-, v, rfl⟩ | ⟨-, k, -, rfl⟩, rfl⟩ <;> rfl

theorem State.executePhase_halted {s s' : State} (h : s.executePhase = .next s') : s'.halted = s.halted := by
  rcases State.executePhase_inv h with rfl | ⟨s₁, ⟨v, rfl⟩ | ⟨imm, rfl⟩ | rfl | rfl | ⟨a, rfl⟩, rfl⟩ <;> rfl

theorem State.decodePhase_halted {s s' : State} (h : s.decodePhase = .next s') : s'.halted = s.halted := by
  rcases State.decodePhase_inv h with ⟨-, rfl⟩ | ⟨-, rfl⟩ <;> rfl

theorem State.writebackPhase_halted {s s' : State} (h : s.writebackPhase = .next s') : s'.halted = s.halted := by
  rcases State.writebackPhase_inv h with rfl | rfl | ⟨ra, rfl⟩ <;> rfl

theorem State.fetchPhase_halted {s s' : State} (he : s.evenTick = false) (h : s.fetchPhase = .next s') :
    s'.halted = s.halted := by
  rcases State.fetchPhase_inv he h with ⟨-, w, rfl⟩ | ⟨-, rfl⟩ <;> rfl

/-- A halt stops the run, so a halt test that lets it go on has set nothing. -/
theorem State.haltTest_halted_of_running {s : State} (h : s.haltTest.running = true) : s.haltTest.halted = s.halted := by
  rw [State.haltTest_running, Bool.and_eq_true, Bool.not_eq_true'] at h
  rw [State.haltTest_halted, h.2, Bool.or_false]

theorem step_halted_of_running {s s' : State} (h : step s = .next s') (hr' : s'.running = true) : s'.halted = s.halted := by
  cases hr : s.running with
  | false => rw [eq_of_next h (step_of_not_running hr)]
  | true =>
    cases he : s.evenTick with
    | true =>
      obtain ⟨s₁, hw, ho, ⟨-, rfl⟩ | ⟨-, s₂, hf, rfl⟩⟩ := step_odd_cases hr he h
      · rw [State.writebackPhase_halted hw, State.beginTick_halted]
      · rw [State.haltTest_halted_of_running hr', State.fetchPhase_halted ho hf, State.writebackPhase_halted hw,
          State.beginTick_halted]
    | false =>
      obtain ⟨s₁, hm, ⟨-, rfl⟩ | ⟨-, s₂, s₃, hx, hd, rfl⟩⟩ := step_even_cases hr he h
      · rw [State.memoryPhase_halted hm, State.beginTick_halted]
      · rw [State.haltTest_halted_of_running hr', State.decodePhase_halted hd, State.executePhase_halted hx,
          State.memoryPhase_halted hm, State.beginTick_halted]

theorem runTicks_halted_of_running {k : Nat} {s s' : State} (h : runTicks k s = .next s') (hr' : s'.running = true) :
    s'.halted = s.halted := by
  induction k generalizing s with
  | zero =>
    cases h
    rfl
  | succ k ih =>
    rw [runTicks_succ] at h
    obtain ⟨s₁, h₁, h⟩ := andThen_eq_next h
    have hr₁ : s₁.running = true := by
      by_contra hstop
      -- a machine that is not running would have stayed in `s₁`
      rw [eq_of_next h (runTicks_of_not_running (by simpa using hstop) k)] at hr'
      exact hstop hr'
    rw [ih h, step_halted_of_running h₁ hr₁]

/-! ### The run of an access outside memory -/

/-- Tick 5: the instruction stands in E, copied into M, with its value or its address, just before its Memory turn. -/
theorem State.ReadyToFetch.beforeMemory {s : State} (h : s.ReadyToFetch) :
    ∃ s₅, s.RunsUnwritten 5 s₅ ∧ s₅.E.Computed (Memory.read s.mem s.pc.toNat) (s.pc + 1) s := by
  obtain ⟨s₄, r₄, hE, hM⟩ := h.afterExecute
  obtain ⟨s₅, h₅⟩ := r₄.exists_step h.count
  have he₄ := r₄.evenTick h.evenTick rfl
  obtain ⟨-, -, hE₅, -⟩ := step_odd_contexts r₄.running he₄ h₅
  rw [← hE₅] at hE
  exact ⟨s₅, r₄.odd he₄ hM h₅ (.inr (.inr (.inl hE.live))), hE⟩

/-- Settles O50: the sixth tick aborts, and a stopped machine stays as it is. -/
theorem outOfBoundsInstructionAbortsTheRun : Obligations.OutOfBoundsInstructionAbortsTheRun := by
  intro s a k h haddr hout
  obtain ⟨s₅, r₅, hE⟩ := h.beforeMemory
  have hea : s₅.E.ea = a := hE.ea a haddr
  have haborts : s₅.AbortsNext (if (s.instrAt s.pc.toNat).opcode = 10#4 then 1 else 2) :=
    { running := r₅.running
      evenNext := r₅.oddTick h.evenTick rfl
      memStart := by rw [r₅.t]; omega
      live := hE.live
      kind := by rw [hE.dec]; exact accessKind_of_netAddress haddr
      outside := by rw [hea, hout] }
  refine ⟨_, (runTicks_add (runTicks_snoc r₅.run haborts.step_eq) k).trans (runTicks_of_not_running rfl k), ?_, rfl, rfl,
    ?_, rfl, ?_, ?_, ?_, ?_⟩
  · simp [r₅.t]
  · simp [runTicks_halted_of_running r₅.run r₅.running]
  · simp [hea]
  · simp [hE.pc]
  · simp [r₅.regs]
  · simp [r₅.mem]

end Sys2Proof.Machine

/-! ### The family of file 70: hazards

There is no interlock and no forwarding (R300): an instruction reads the registers as the Write-backs before its own turns left
them. One row of producers, of any length, and the instruction behind it; the statements are about rows of one to three. -/

namespace Sys2Proof.Machine

/-! ### The turns of an instruction whose operands may be older than the registers -/

/-- An instruction that writes a register is none of the four without a Write-back (R121). -/
theorem wbDest_of_netWrite {i : Instr} {s : State} {r : RegIdx} {v : Word} (h : netWrite i s = some (r, v)) :
    wbDest i = some r := by
  rcases netWrite_cases h with hvalue | ⟨rb, imm, rfl, -, -⟩
  · cases i <;> cases hvalue <;> rfl
  · rfl

/-- An instruction that writes a register is no transfer. -/
theorem opcode_of_netWrite {i : Instr} {s : State} {p : RegIdx × Word} (h : netWrite i s = some p) :
    i.opcode ≠ 4#4 ∧ i.opcode ≠ 7#4 := by
  cases i with
  | jeq | jmp | undef => cases h
  | _ => exact ⟨by simp [Instr.opcode], by simp [Instr.opcode]⟩

/-- An instruction that computes its value in Execute makes no access. -/
theorem netAddress_of_netValue {i : Instr} {s : State} {p : RegIdx × Word} (h : netValue i s = some p) :
    netAddress i s = none := by
  cases i with
  | movr | movm => cases h
  | _ => rfl

/-- At its Memory turn an instruction that writes a register depends on memory and on its own context, not on the registers
(R218, R303). -/
theorem exec_memory_write {i : Instr} {s s₀ : State} {r : RegIdx} {v : Word} (ht : s.turn = .memory)
    (hmem : s.mem = s₀.mem) (hwrite : netWrite i s₀ = some (r, v))
    (hv : ∀ r v, netValue i s₀ = some (r, v) → s.M.result = v) (ha : ∀ a, netAddress i s₀ = some a → s.M.ea = a) :
    exec i s = .next (s.setLoaded v) := by
  rcases netWrite_cases hwrite with hvalue | ⟨rb, imm, rfl, hin, rfl⟩
  · obtain ⟨-, -, hexec⟩ := noAccess_of_netAddress_eq_none (netAddress_of_netValue hvalue)
    rw [hexec s ht, ← hv r v hvalue]
    rfl
  · rw [← ha _ rfl] at hin ⊢
    rw [exec_movr_memory ht, State.loadTurn_in hin, hmem]

/-- The Memory turn of an even tick from 6, with a live context arriving in M, decides memory, M and the abort flag. -/
theorem step_even_runs_memory_turn {s s' s₀ u : State} {w p : Word} (hr : s.running = true) (he : s.evenTick = false)
    (ht : 5 ≤ s.t) (hE : s.E.Computed w p s₀) (hexec : exec (decode w) (s.beginTick.setTurn .memory) = .next u)
    (h : step s = .next s') : s'.abort = u.abort ∧ s'.mem = u.mem ∧ s'.M = u.M := by
  obtain ⟨s₁, hm, hrest⟩ := step_even_memory hr he h
  have hodd := s.evenTick_eq_false_iff.mp he
  have hact : s.beginTick.memoryActs = true := by
    rw [State.memoryActs_iff, State.beginTick_t, State.beginTick_M]
    exact ⟨by omega, by omega, hE.live⟩
  have hdec : s.beginTick.M.dec.instr = decode w := by rw [State.beginTick_M, hE.dec]; rfl
  rw [State.memoryPhase, if_pos hact, hdec] at hm
  rwa [eq_of_next hm (State.giveTurn_next hexec)] at hrest

/-- The Memory turn of an instruction that writes a register, whatever was written since its Decode turn. -/
theorem step_even_completes_write {s s' s₀ : State} {w p : Word} {r : RegIdx} {v : Word} (hr : s.running = true)
    (he : s.evenTick = false) (ha : s.abort = false) (ht : 5 ≤ s.t) (hE : s.E.Computed w p s₀) (hmem : s.mem = s₀.mem)
    (hwrite : netWrite (decode w) s₀ = some (r, v)) (h : step s = .next s') :
    s'.abort = false ∧ s'.mem = s.mem ∧ s'.M.Completed w p s₀ := by
  have hexec := exec_memory_write (s := s.beginTick.setTurn .memory) rfl (s.beginTick_mem.trans hmem) hwrite
    (by rw [State.setTurn_M, State.beginTick_M]; exact hE.result) (by rw [State.setTurn_M, State.beginTick_M]; exact hE.ea)
  obtain ⟨ha', hmem', hM⟩ := step_even_runs_memory_turn hr he ht hE hexec h
  refine ⟨ha'.trans (s.beginTick_abort.trans ha), hmem'.trans s.beginTick_mem, ?_⟩
  have hM : s'.M = { s.E with result := v } := by rw [← State.beginTick_M]; exact hM
  rw [hM]
  refine ⟨⟨hE.live, hE.word, hE.pc⟩, hE.dec, fun r' v' h' => ?_⟩
  rw [hwrite] at h'
  cases h'
  rfl

/-- The Memory turn of a store inside memory: the address was computed from the registers of `s₀`, the word stored is the
register now (R171, R302). -/
theorem step_even_stores {s s' s₀ : State} {w p : Word} {ra rb : RegIdx} {imm : Word} (hr : s.running = true)
    (he : s.evenTick = false) (ht : 5 ≤ s.t) (hE : s.E.Computed w p s₀) (hi : decode w = .movm ra rb imm)
    (hin : inBounds (s₀.readReg rb + imm) = true) (h : step s = .next s') :
    s'.mem = Memory.write s.mem (s₀.readReg rb + imm).toNat (s.readReg ra) := by
  have hea : (s.beginTick.setTurn .memory).M.ea = s₀.readReg rb + imm := by
    rw [State.setTurn_M, State.beginTick_M]
    exact hE.ea _ (by rw [hi]; rfl)
  have hexec := exec_movm_memory (s := s.beginTick.setTurn .memory) rfl ra rb imm
  have hdata : (s.beginTick.setTurn .memory).readReg ra = s.readReg ra := State.readReg_congr (by simp) ra
  rw [State.storeTurn_in ra (by rwa [hea]), hea, hdata, ← hi] at hexec
  obtain ⟨-, hmem, -⟩ := step_even_runs_memory_turn hr he ht hE hexec h
  rw [hmem, State.storeWord_mem, State.setTurn_mem, State.beginTick_mem]

/-- The Write-back turn of an instruction that writes a register, whatever was written since its Decode turn. -/
theorem step_odd_writes_value {s s' s₀ : State} {w p : Word} {r : RegIdx} {v : Word} (hr : s.running = true)
    (ha : s.abort = false) (he : s.evenTick = true) (ht : 6 ≤ s.t) (hM : s.M.Completed w p s₀)
    (hwrite : netWrite (decode w) s₀ = some (r, v)) (h : step s = .next s') : s'.regs = (s.writeReg r v).regs := by
  have hdec : s.M.dec.instr = decode w := congrArg Fields.instr hM.dec
  rw [step_odd_writes hr ha he ht hM.live h, hdec, wbDest_of_netWrite hwrite, Option.elim_some, hM.result r v hwrite]

/-! ### The marks on F and the mark of a JEQ -/

/-- An even tick that leaves the context in D live has made no mark on F either (R189). -/
theorem step_even_F_of_live {s s' : State} (hr : s.running = true) (he : s.evenTick = false) (h : step s = .next s')
    (ha : s'.abort = false) (hD : s'.D.live = true) : s'.F = s.F := by
  obtain ⟨s₁, s₂, s₃, hm, hx, -, hd, -, rfl⟩ := step_even_inv hr he h ha
  obtain ⟨-, -, -, -, hF₁⟩ := State.memoryPhase_frame hm
  obtain ⟨hF₃, -, hflush, -⟩ := State.decodePhase_slots hd
  rw [State.haltTest_D, Context.live_iff, hflush] at hD
  have hF₂ : s₂.F = s₁.F := by
    rcases State.executePhase_inv hx with rfl | ⟨u, ⟨v, rfl⟩ | ⟨imm, rfl⟩ | rfl | rfl | ⟨a, rfl⟩, rfl⟩
    case inr.inr.inr.inr.inr => cases hD.2
    all_goals rfl
  rw [State.haltTest_F, hF₃, hF₂, hF₁, State.beginTick_F]

/-- Fetch never marks F (R222, R223). -/
theorem step_odd_F_unmarked {s s' : State} (hr : s.running = true) (ha : s.abort = false) (he : s.evenTick = true)
    (hF : s.F.flush = false) (h : step s = .next s') : s'.F.flush = false := by
  obtain ⟨s₁, s₂, hw, ho, hf, -, rfl⟩ := step_odd_inv hr ha he h
  have hF₁ : s₁.F = s.F := by
    rcases State.writebackPhase_inv hw with rfl | rfl | ⟨ra, rfl⟩ <;> simp
  rw [State.haltTest_F]
  rcases State.fetchPhase_inv ho hf with ⟨-, w, rfl⟩ | ⟨-, rfl⟩
  · rfl
  · exact (congrArg Context.flush hF₁).trans hF

/-- JEQ marks D exactly when it is taken (R182). -/
theorem State.jeqTurn_marks_D (s : State) (ra rb : RegIdx) (imm : Word) (hD : s.D.flush = false) :
    (s.jeqTurn ra rb imm).D.flush = true ↔ s.readReg ra = s.readReg rb ∧ 1 ≤ imm.toInt := by
  by_cases heq : s.readReg ra = s.readReg rb
  · rcases lt_trichotomy imm.toInt 1 with himm | himm | himm
    · rw [State.jeqTurn_of_offset_nonpos heq (by omega), hD]
      exact iff_of_false nofun fun h => absurd h.2 (by omega)
    · rw [State.jeqTurn_of_offset_one heq himm]
      exact iff_of_true rfl ⟨heq, himm.ge⟩
    · rw [State.jeqTurn_of_offset_gt_one heq himm]
      exact iff_of_true rfl ⟨heq, himm.le⟩
  · rw [State.jeqTurn_of_ne heq, hD]
    exact iff_of_false nofun fun h => heq h.1

/-- The Execute turn of a JEQ compares the registers as they are now (R301), and marks what arrives in D by the outcome. -/
theorem step_even_jeq_marks_D {s s' s₀ : State} {w p : Word} {ra rb : RegIdx} {imm : Word} (hr : s.running = true)
    (he : s.evenTick = false) (hD : s.D.Latched w p s₀) (hi : decode w = .jeq ra rb imm) (hF : s.F.flush = false)
    (h : step s = .next s') (ha : s'.abort = false) :
    s'.D.flush = true ↔ s.readReg ra = s.readReg rb ∧ 1 ≤ imm.toInt := by
  obtain ⟨s₁, s₂, s₃, hturn, hregs, -, -, hD₁, hexec, hd, rfl⟩ := step_even_executes hr he hD.live h ha
  obtain ⟨-, -, hflush, -⟩ := State.decodePhase_slots hd
  have hdec : s.D.dec.instr = decode w := congrArg Fields.instr hD.dec
  rw [hdec, hi] at hexec
  rw [State.haltTest_D, hflush, State.setTurn_D, eq_of_next hexec (exec_jeq_execute hturn ra rb imm),
    State.jeqTurn_marks_D _ _ _ _ (by rw [hD₁, hF]), State.readReg_congr hregs, State.readReg_congr hregs]

end Sys2Proof.Machine

/-! ### A row of producers -/

namespace Sys2Proof.Machine

/-! ### The registers that each instruction of a row reads -/

/-- Registers written one after the other, from the front of the list. -/
def State.writeAll (s : State) (ws : List (RegIdx × Word)) : State :=
  ws.foldl (fun u p => u.writeReg p.1 p.2) s

/-- The state whose registers instruction `j` of a row with the writes `ws` reads at its Decode turn, at tick `2 * j + 2`: the
writes up to that of instruction `j - 3` have been made (R224, R300). -/
def State.seenBy (s : State) (ws : List (RegIdx × Word)) (j : Nat) : State := s.writeAll (ws.take (j - 2))

@[simp] theorem State.writeAll_mem (s : State) (ws : List (RegIdx × Word)) : (s.writeAll ws).mem = s.mem := by
  induction ws generalizing s with
  | nil => rfl
  | cons p ws ih => exact ih (s.writeReg p.1 p.2)

@[simp] theorem State.seenBy_mem (s : State) (ws : List (RegIdx × Word)) (j : Nat) : (s.seenBy ws j).mem = s.mem :=
  s.writeAll_mem _

/-- One write more is seen three instructions behind it. -/
theorem State.seenBy_add_three {s : State} {ws : List (RegIdx × Word)} {j : Nat} {r : RegIdx} {v : Word}
    (h : ws[j]? = some (r, v)) : s.seenBy ws (j + 3) = (s.seenBy ws (j + 2)).writeReg r v := by
  have htake : ws.take (j + 1) = ws.take j ++ [(r, v)] := by rw [List.take_add_one, h]; rfl
  change s.writeAll (ws.take (j + 1)) = (s.writeAll (ws.take j)).writeReg r v
  rw [htake, State.writeAll, List.foldl_append]
  rfl

/-- From two instructions behind the row on, all its writes are seen. -/
theorem State.seenBy_length_add_two (s : State) (ws : List (RegIdx × Word)) :
    s.seenBy ws (ws.length + 2) = s.writeAll ws :=
  congrArg s.writeAll List.take_length

/-- The word of instruction `j` of the program from pc on. -/
def State.rowWord (s : State) (j : Nat) : Word := Memory.read s.mem (s.pc.toNat + j)

/-- The own pc of instruction `j` of the program from pc on (R181). -/
def State.rowPc (s : State) (j : Nat) : Word := s.pc + BitVec.ofNat 32 j + 1

theorem State.rowPc_succ (s : State) (j : Nat) : s.rowPc (j + 1) = s.rowPc j + 1 := by
  unfold State.rowPc
  bv_omega

theorem State.rowPc_toNat {s : State} {j : Nat} (h : s.pc.toNat + j < s.n.toNat) :
    (s.rowPc j).toNat = s.pc.toNat + (j + 1) := by
  have := s.n.isLt
  unfold State.rowPc
  bv_omega

/-- Instructions of the write-back set stand in a row from pc on, each writing the value it has by what it sees, and one more
word of the program behind them. -/
structure State.ProducerRow (s : State) (ws : List (RegIdx × Word)) : Prop where
  ready : s.ReadyToFetch
  inProgram : s.pc.toNat + ws.length < s.n.toNat
  writes : ∀ j p, ws[j]? = some p → netWrite (s.instrAt (s.pc.toNat + j)) (s.seenBy ws j) = some p

/-! ### The row in the pipeline -/

/-- After tick `2 * j + 2`: behind the Decode turn of instruction `j`, instruction `j - 1` stands in E and `j - 2` in M, as far
as there are such. -/
structure State.InRow (s : State) (ws : List (RegIdx × Word)) (j : Nat) (u : State) : Prop where
  runs : s.Runs (2 * j + 2) u
  regs : u.regs = (s.seenBy ws j).regs
  mem : u.mem = s.mem
  inE : ∀ i, i + 1 = j → u.E.Computed (s.rowWord i) (s.rowPc i) (s.seenBy ws i)
  inM : ∀ i, i + 2 = j → u.M.Completed (s.rowWord i) (s.rowPc i) (s.seenBy ws i)
  emptyE : j = 0 → u.E.live = false
  emptyM : j < 2 → u.M.live = false

/-- The same with instruction `j` in D, and the next fetch that of instruction `j + 1`. -/
structure State.InRowDecoded (s : State) (ws : List (RegIdx × Word)) (j : Nat) (u : State) : Prop
    extends s.InRow ws j u where
  inD : u.D.Latched (s.rowWord j) (s.rowPc j) (s.seenBy ws j)
  unmarkedF : u.F.flush = false
  pc : u.pc = s.rowPc j

/-- After tick `2 * j + 3`, between the two: what instruction `j + 1` will see has been written, and D and E are as before. -/
structure State.AfterWriteback (s : State) (ws : List (RegIdx × Word)) (j : Nat) (u v : State) : Prop where
  step : step u = .next v
  runs : s.Runs (2 * j + 3) v
  regs : v.regs = (s.seenBy ws (j + 1)).regs
  mem : v.mem = s.mem
  D : v.D = u.D
  E : v.E = u.E

namespace State.ProducerRow

variable {s u v v' : State} {ws : List (RegIdx × Word)} {j : Nat} (h : s.ProducerRow ws)

include h

/-- The registers after the odd tick behind tick `2 * j + 2`: instruction `j - 2` has written. -/
theorem regs_afterWriteback (hj : j ≤ ws.length + 1) (hu : s.InRow ws j u) (hstep : step u = .next v) :
    v.regs = (s.seenBy ws (j + 1)).regs := by
  match j with
  | 0 | 1 => exact (step_regs_of_dead (hu.emptyM (by omega)) hstep).trans hu.regs
  | j + 2 =>
    obtain ⟨⟨r, x⟩, hp⟩ : ∃ p, ws[j]? = some p := ⟨_, List.getElem?_eq_getElem (by omega)⟩
    have ht : 6 ≤ u.t := by rw [hu.runs.t]; omega
    rw [step_odd_writes_value hu.runs.running hu.runs.notAborted (hu.runs.evenTick h.ready.evenTick (by omega)) ht
      (hu.inM j rfl) (h.writes j _ hp) hstep, s.seenBy_add_three hp, State.writeReg_regs, State.writeReg_regs, hu.regs]

/-- The odd tick. -/
theorem afterWriteback (hj : j ≤ ws.length + 1) (hu : s.InRow ws j u) (hlive : u.D.live = true ∨ u.E.live = true) :
    ∃ v, s.AfterWriteback ws j u v := by
  obtain ⟨v, hstep⟩ := hu.runs.exists_step h.ready.count
  have he := hu.runs.evenTick h.ready.evenTick (by omega)
  obtain ⟨ha, hmem, hD, hE, -⟩ := step_odd_keeps hu.runs.running hu.runs.notAborted he hstep
  rw [← hD, ← hE] at hlive
  exact ⟨v, hstep, hu.runs.next hstep ha (.inr (hlive.elim .inl fun hl => .inr (.inl hl))),
    h.regs_afterWriteback hj hu hstep, hmem.trans hu.mem, hD, hE⟩

/-- The Memory turn of the even tick behind it, that of instruction `j - 1`. -/
theorem memory_of_next (hj : j ≤ ws.length) (hu : s.InRow ws j u) (hv : s.AfterWriteback ws j u v)
    (hstep : step v = .next v') :
    v'.abort = false ∧ v'.mem = s.mem ∧
      (∀ i, i + 2 = j + 1 → v'.M.Completed (s.rowWord i) (s.rowPc i) (s.seenBy ws i)) ∧
      (j + 1 < 2 → v'.M.live = false) := by
  have he := hv.runs.oddTick h.ready.evenTick (by omega)
  match j with
  | 0 =>
    have hE : v.E.live = false := by rw [hv.E, hu.emptyE rfl]
    obtain ⟨ha, hmem, hM⟩ := step_even_quiet hv.runs.running he hE hstep
    exact ⟨ha.trans hv.runs.notAborted, hmem.trans hv.mem, fun i hi => by omega, fun _ => by rw [hM, hE]⟩
  | j + 1 =>
    obtain ⟨⟨r, x⟩, hp⟩ : ∃ p, ws[j]? = some p := ⟨_, List.getElem?_eq_getElem (by omega)⟩
    have ht : 5 ≤ v.t := by rw [hv.runs.t]; omega
    have hE := hu.inE j rfl
    rw [← hv.E] at hE
    obtain ⟨ha, hmem, hM⟩ := step_even_completes_write hv.runs.running he hv.runs.notAborted ht hE
      (hv.mem.trans (s.seenBy_mem ws j).symm) (h.writes j _ hp) hstep
    refine ⟨ha, hmem.trans hv.mem, fun i hi => ?_, fun hlt => by omega⟩
    obtain rfl : i = j := by omega
    exact hM

/-- The even tick: every instruction in flight moves on by one slot. -/
theorem inRow_succ (hj : j ≤ ws.length) (hu : s.InRowDecoded ws j u) (hv : s.AfterWriteback ws j u v)
    (hstep : step v = .next v') : s.InRow ws (j + 1) v' := by
  have he := hv.runs.oddTick h.ready.evenTick (by omega)
  obtain ⟨ha, hmem, hM, hM'⟩ := h.memory_of_next hj hu.toInRow hv hstep
  have hE := step_even_computes hv.runs.running he (by rw [hv.D]; exact hu.inD) hstep ha
  refine ⟨hv.runs.next hstep ha (.inr (.inr (.inl hE.live))), (step_even_regs he hstep).trans hv.regs, hmem,
    fun i hi => ?_, hM, nofun, hM'⟩
  obtain rfl : i = j := by omega
  exact hE

/-- With the fetch of instruction `j + 1` in the odd tick and its Decode turn in the even one. -/
theorem inRowDecoded_succ (hj : j < ws.length) (hu : s.InRowDecoded ws j u) : ∃ v, s.InRowDecoded ws (j + 1) v := by
  obtain ⟨v, hv⟩ := h.afterWriteback (by omega) hu.toInRow (.inl hu.inD.live)
  obtain ⟨v', hstep⟩ := hv.runs.exists_step h.ready.count
  have heu := hu.runs.evenTick h.ready.evenTick (by omega)
  have hev := hv.runs.oddTick h.ready.evenTick (by omega)
  have hlt := h.inProgram
  have hnat : u.pc.toNat = s.pc.toNat + (j + 1) := by rw [hu.pc, State.rowPc_toNat (by omega)]
  have hp : u.pc.toNat < u.n.toNat := by rw [hnat, hu.runs.n]; omega
  have hF := step_odd_fetches hu.runs.running hu.runs.notAborted heu (by rw [hu.runs.n]; exact h.ready.count) hp hv.step
  rw [hnat, hu.mem, hu.pc, ← State.rowPc_succ] at hF
  have hcarries : v.F.Carries (s.rowWord (j + 1)) (s.rowPc (j + 1)) := by rw [hF]; exact ⟨rfl, rfl, rfl⟩
  have hnext := h.inRow_succ hj.le hu hv hstep
  have hop : v.D.dec.op ≠ 4#4 ∧ v.D.dec.op ≠ 7#4 := by
    rw [hv.D, hu.inD.dec, ← Fields.instr_opcode]
    exact opcode_of_netWrite (h.writes j _ (List.getElem?_eq_getElem hj))
  have hlive : v'.D.live = true := by
    rw [step_even_unmarked_of_no_transfer hv.runs.running hev hop.1 hop.2 hstep hnext.runs.notAborted, hcarries.live]
  refine ⟨v', hnext, (step_even_latches hv.runs.running hev hcarries hstep hnext.runs.notAborted hlive).congr
    hv.regs.symm, ?_, ?_⟩
  · rw [step_even_F_of_live hv.runs.running hev hstep hnext.runs.notAborted hlive, hF]
    rfl
  · rw [step_even_pc_of_no_transfer hev hop.1 hop.2 hstep, step_odd_pc hu.runs.running hu.runs.notAborted heu hp hv.step,
      hu.pc, State.rowPc_succ]

/-- Tick 2: the first instruction stands in D, alone. -/
theorem inRowDecoded_zero : ∃ u, s.InRowDecoded ws 0 u := by
  obtain ⟨s₁, r₁, hF, -⟩ := h.ready.afterFetch
  obtain ⟨s₂, r₂, hD, hE, hM⟩ := h.ready.afterDecode
  have hstep : step s₁ = .next s₂ := by
    obtain ⟨u, hu⟩ := r₁.exists_step h.ready.count
    obtain rfl := eq_of_next r₂.run (runTicks_snoc r₁.run hu)
    exact hu
  have hpc : s.rowPc 0 = s.pc + 1 := congrArg (· + 1) (BitVec.add_zero s.pc)
  refine ⟨s₂, ⟨r₂.toRuns, r₂.regs, r₂.mem, nofun, nofun, fun _ => hE, fun _ => hM⟩, ?_, ?_, ?_⟩
  · rw [hpc]
    exact hD
  · rw [step_even_F_of_live r₁.running (r₁.oddTick h.ready.evenTick rfl) hstep r₂.notAborted hD.live]
    exact ((Context.live_iff _).mp hF.live).2
  · rw [hpc, h.ready.pc_after_two_ticks r₂.run]

/-- The instruction behind the row reaches D with the operands it sees. -/
theorem inRowDecoded : ∃ u, s.InRowDecoded ws ws.length u := by
  have hall : ∀ j ≤ ws.length, ∃ u, s.InRowDecoded ws j u := by
    intro j hj
    induction j with
    | zero => exact h.inRowDecoded_zero
    | succ j ih =>
      obtain ⟨u, hu⟩ := ih (by omega)
      exact h.inRowDecoded_succ hj hu
  exact hall _ le_rfl

/-! ### The instruction behind the row -/

/-- Its Execute turn, when it is a JEQ: it compares the registers without the last write of the row, that is as the
instruction behind it sees them (R301). -/
theorem jeq_behind {ra rb : RegIdx} {imm : Word} (hi : s.instrAt (s.pc.toNat + ws.length) = .jeq ra rb imm) :
    ∃ s', runTicks (2 * ws.length + 4) s = .next s' ∧
      (s'.D.flush = true ↔
        (s.seenBy ws (ws.length + 1)).readReg ra = (s.seenBy ws (ws.length + 1)).readReg rb ∧ 1 ≤ imm.toInt) := by
  obtain ⟨u, hu⟩ := h.inRowDecoded
  obtain ⟨v, hv⟩ := h.afterWriteback (by omega) hu.toInRow (.inl hu.inD.live)
  obtain ⟨v', hstep⟩ := hv.runs.exists_step h.ready.count
  have hnext := h.inRow_succ le_rfl hu hv hstep
  have hF := step_odd_F_unmarked hu.runs.running hu.runs.notAborted (hu.runs.evenTick h.ready.evenTick (by omega))
    hu.unmarkedF hv.step
  refine ⟨v', hnext.runs.run, ?_⟩
  rw [step_even_jeq_marks_D hv.runs.running (hv.runs.oddTick h.ready.evenTick (by omega)) (by rw [hv.D]; exact hu.inD) hi hF
    hstep hnext.runs.notAborted, State.readReg_congr hv.regs, State.readReg_congr hv.regs]

/-- Before its Memory turn the whole row has written, and memory is as it was. -/
theorem beforeMemory_behind :
    ∃ v, s.Runs (2 * ws.length + 5) v ∧ v.regs = (s.writeAll ws).regs ∧ v.mem = s.mem ∧
      v.E.Computed (s.rowWord ws.length) (s.rowPc ws.length) (s.seenBy ws ws.length) := by
  obtain ⟨u, hu⟩ := h.inRowDecoded
  obtain ⟨v, hv⟩ := h.afterWriteback (by omega) hu.toInRow (.inl hu.inD.live)
  obtain ⟨u', hstep⟩ := hv.runs.exists_step h.ready.count
  have hu' := h.inRow_succ le_rfl hu hv hstep
  have hE := hu'.inE _ rfl
  obtain ⟨v', hv'⟩ := h.afterWriteback le_rfl hu' (.inr hE.live)
  rw [← hv'.E] at hE
  exact ⟨v', hv'.runs, by rw [hv'.regs, State.seenBy_length_add_two], hv'.mem, hE⟩

/-- Its Memory turn, when it is a store inside memory: the base is the one it saw at Decode, the data register has all the
writes of the row (R300, R302). -/
theorem store_behind {ra rb : RegIdx} {imm : Word} (hi : s.instrAt (s.pc.toNat + ws.length) = .movm ra rb imm)
    (hin : inBounds ((s.seenBy ws ws.length).readReg rb + imm) = true) :
    ∃ s', runTicks (2 * ws.length + 6) s = .next s' ∧ s'.regs = (s.writeAll ws).regs ∧
      s'.mem = Memory.write s.mem ((s.seenBy ws ws.length).readReg rb + imm).toNat ((s.writeAll ws).readReg ra) := by
  obtain ⟨v, hruns, hregs, hmem, hE⟩ := h.beforeMemory_behind
  obtain ⟨s', hstep⟩ := hruns.exists_step h.ready.count
  have he := hruns.oddTick h.ready.evenTick (by omega)
  have hstored := step_even_stores hruns.running he (by rw [hruns.t]; omega) hE hi hin hstep
  refine ⟨s', runTicks_snoc hruns.run hstep, (step_even_regs he hstep).trans hregs, ?_⟩
  rw [hstored, hmem, State.readReg_congr hregs]

/-- Its Write-back turn, when it writes a register too: the value comes from what it saw at Decode, and goes on top of the
writes of the row (R300, R303). -/
theorem write_behind {r : RegIdx} {x : Word}
    (hwrite : netWrite (s.instrAt (s.pc.toNat + ws.length)) (s.seenBy ws ws.length) = some (r, x)) :
    ∃ s', runTicks (2 * ws.length + 7) s = .next s' ∧ s'.regs = ((s.writeAll ws).writeReg r x).regs ∧ s'.mem = s.mem := by
  obtain ⟨v, hruns, hregs, hmem, hE⟩ := h.beforeMemory_behind
  obtain ⟨u, hstep⟩ := hruns.exists_step h.ready.count
  have he := hruns.oddTick h.ready.evenTick (by omega)
  obtain ⟨ha, hmem', hM⟩ := step_even_completes_write hruns.running he hruns.notAborted (by rw [hruns.t]; omega) hE
    (hmem.trans (s.seenBy_mem ws _).symm) hwrite hstep
  have hruns' := hruns.next hstep ha (.inr (.inr (.inr hM.live)))
  obtain ⟨s', hstep'⟩ := hruns'.exists_step h.ready.count
  have he' := hruns'.evenTick h.ready.evenTick (by omega)
  obtain ⟨-, hmem'', -⟩ := step_odd_keeps hruns'.running hruns'.notAborted he' hstep'
  refine ⟨s', runTicks_snoc hruns'.run hstep', ?_, hmem''.trans (hmem'.trans hmem)⟩
  rw [step_odd_writes_value hruns'.running hruns'.notAborted he' (by rw [hruns'.t]; omega) hM hwrite hstep',
    State.writeReg_regs, State.writeReg_regs, step_even_regs he hstep, hregs]

end State.ProducerRow

end Sys2Proof.Machine

/-! ### The distances of the statements -/

namespace Sys2Proof.Machine

/-- One producer more at the end of a row sees what the instruction behind the row sees. -/
theorem State.ProducerRow.snoc {s : State} {ws : List (RegIdx × Word)} {p : RegIdx × Word} (h : s.ProducerRow ws)
    (hp : s.pc.toNat + (ws.length + 1) < s.n.toNat)
    (hwrite : netWrite (s.instrAt (s.pc.toNat + ws.length)) (s.seenBy ws ws.length) = some p) :
    s.ProducerRow (ws ++ [p]) where
  ready := h.ready
  inProgram := by rwa [List.length_append, List.length_singleton]
  writes j q hq := by
    have hseen : j ≤ ws.length → s.seenBy (ws ++ [p]) j = s.seenBy ws j := fun hj =>
      congrArg s.writeAll (List.take_append_of_le_length (by omega))
    rcases lt_trichotomy j ws.length with hj | rfl | hj
    · rw [List.getElem?_append_left hj] at hq
      rw [hseen hj.le]
      exact h.writes j q hq
    · rw [List.getElem?_concat_length] at hq
      cases hq
      rw [hseen le_rfl]
      exact hwrite
    · rw [List.getElem?_eq_none (by rw [List.length_append, List.length_singleton]; omega)] at hq
      cases hq

theorem State.ReadyToFetch.emptyRow {s : State} (h : s.ReadyToFetch) : s.ProducerRow [] :=
  ⟨h, h.inProgram, nofun⟩

section Rows

variable {s : State} {p q r : RegIdx × Word} (h : s.ReadyToFetch)
  (hfirst : netWrite (s.instrAt s.pc.toNat) s = some p) (hsecond : netWrite (s.instrAt (s.pc.toNat + 1)) s = some q)
  (hthird : netWrite (s.instrAt (s.pc.toNat + 2)) s = some r)

include h hfirst

theorem producerRow_one (hp : s.pc.toNat + 1 < s.n.toNat) : s.ProducerRow [p] :=
  h.emptyRow.snoc hp hfirst

include hsecond

/-- Of two producers the second sees the registers as they were. -/
theorem producerRow_two (hp : s.pc.toNat + 2 < s.n.toNat) : s.ProducerRow [p, q] :=
  (producerRow_one h hfirst (by omega)).snoc hp hsecond

include hthird

/-- Of three producers the third sees the registers as they were, too. -/
theorem producerRow_three (hp : s.pc.toNat + 3 < s.n.toNat) : s.ProducerRow [p, q, r] :=
  (producerRow_two h hfirst hsecond (by omega)).snoc hp hthird

end Rows

/-- Settles O53: the second instruction stands behind a row of one. -/
theorem nextInstructionReadsOldValue : Obligations.NextInstructionReadsOldValue :=
  fun _ _ _ _ _ h hp hfirst hsecond => (producerRow_one h hfirst hp).write_behind hsecond

/-- Settles O54: the fourth instruction stands behind a row of three, and sees the first write of it. -/
theorem fourthInstructionReadsFirstResult : Obligations.FourthInstructionReadsFirstResult := by
  intro s r₁ r₂ r₃ r₄ v₁ v₂ v₃ v₄ h hp hfirst hsecond hthird hfourth
  obtain ⟨s', hrun, hregs, hmem⟩ := (producerRow_three h hfirst hsecond hthird hp).write_behind hfourth
  exact ⟨s', hrun, hmem, hregs⟩

/-- Settles O55: JEQ compares without the last write of the row in front of it, the only one of a row of one, the second one of
a row of two. -/
theorem compareReadsAtExecute : Obligations.CompareReadsAtExecute := by
  intro s r v ra rb imm h hfirst
  refine ⟨fun hp hi => (producerRow_one h hfirst hp).jeq_behind hi, ?_⟩
  rintro hp ⟨q, hsecond⟩ hi
  exact (producerRow_two h hfirst hsecond hp).jeq_behind hi

/-- Settles O56: the store stands behind a row of one, and sees none of its write at Decode. -/
theorem storeDataIsNeverStale : Obligations.StoreDataIsNeverStale :=
  fun _ _ _ _ _ _ h hp hfirst hi hin => (producerRow_one h hfirst hp).store_behind hi hin

/-- Settles O57: the store stands behind a row of three, and sees the first write of it at Decode. -/
theorem fourthInstructionStoresWithFreshBase : Obligations.FourthInstructionStoresWithFreshBase :=
  fun _ _ _ _ _ _ _ _ _ _ h hp hfirst hsecond hthird hi hin =>
    (producerRow_three h hfirst hsecond hthird hp).store_behind hi hin

end Sys2Proof.Machine
